-- ==== Sys2Proof/Word.lean ====
section
/-!
DEFINITION. The bit-vector widths of the spec: the 32-bit register and general registers (R4, R49), the fields of
an instruction word (R61, R66), a byte of the enclosing machine's instruction memory.
-/
namespace Sys2Proof

/-- A 32-bit value: SDCR (R4), a general register (R49), an instruction word (R66), an address. -/
abbrev Word := BitVec 32

/-- One byte of an instruction as the enclosing machine's memory holds it. -/
abbrev Byte := BitVec 8

/-- A four-bit field of an encoding: `cond`, `coproc`, `CRn`, `CRm`, `Rt` (R61, R66). -/
abbrev Nibble := BitVec 4

/-- One bit: a one-bit field of SDCR or of another register (R14, R48). -/
abbrev Bit := BitVec 1

end Sys2Proof
end

