-- ==== Sys2Proof/Syntax.lean ====
section
/-!
DEFINITION. The two accessor instructions in their two instruction sets, one constructor per row of
spec/opcode_table.json; the tuple of the System register encoding space (R61); the assembler template (R62).
-/
namespace Sys2Proof

/-- The instruction set the PE is decoding (R71: state of the enclosing machine). -/
inductive ISet where
  | a32
  | t32
deriving DecidableEq, Repr

/-- The tuple that `MRC` and `MCR` address in the System register encoding space (R61). -/
structure SysRegTuple where
  coproc : Nibble
  opc1 : BitVec 3
  crn : Nibble
  crm : Nibble
  opc2 : BitVec 3
deriving DecidableEq, Repr

/-- An access to SDCR. `rt` is the number `t` of the general register (R64); `cond` is the A32 condition field
(R66); a T32 instruction has no condition field (R67). -/
inductive Instr where
  /-- `MRC<c> p15, 0, <Rt>, c1, c3, 1`, the A32 word (R66, R72). -/
  | mrcA32 (cond rt : Nibble)
  /-- `MCR<c> p15, 0, <Rt>, c1, c3, 1`, the A32 word (R66, R77). -/
  | mcrA32 (cond rt : Nibble)
  /-- `MRC p15, 0, <Rt>, c1, c3, 1`, the two T32 halfwords (R67, R72). -/
  | mrcT32 (rt : Nibble)
  /-- `MCR p15, 0, <Rt>, c1, c3, 1`, the two T32 halfwords (R67, R77). -/
  | mcrT32 (rt : Nibble)
deriving DecidableEq, Repr

/-- The qualifier `<q>`: `.N` or `.W` (R65). -/
inductive Qualifier where
  | n
  | w
deriving DecidableEq, Repr

/-- One line of the assembler template of R62, `<c>`, `<q>` and `, {#}<opc2>` each possibly omitted. The `#` before
a number is a spelling only. -/
structure AsmLine where
  /-- True for `MRC`, false for `MCR`. -/
  isRead : Bool
  cond : Option Nibble
  qualifier : Option Qualifier
  coproc : Nibble
  opc1 : BitVec 3
  rt : Nibble
  crn : Nibble
  crm : Nibble
  opc2 : Option (BitVec 3)
deriving DecidableEq, Repr

end Sys2Proof
end

