-- ==== Sys2Proof/WellFormed.lean ====
section
/-!
DEFINITION. Which terms of Instr are instructions: the one check the encoding makes (R66, R68: an A32 `cond` of
`0b1111` is not a condition and such a word is not this instruction). Every `rt` is encodable (R66); 13 and 15 are
refused when executed (R80), not when decoded.
-/
namespace Sys2Proof

/-- `cond` is a condition: anything but `0b1111` (R66). -/
abbrev condIsCondition (cond : Nibble) : Prop := cond ≠ 0b1111#4

/-- The instruction has an encoding. -/
def Instr.wellFormed (i : Instr) : Bool :=
  match i with
  | .mrcA32 cond _ => decide (condIsCondition cond)
  | .mcrA32 cond _ => decide (condIsCondition cond)
  | .mrcT32 _ => true
  | .mcrT32 _ => true

/-- The instruction set an instruction belongs to. -/
def Instr.iset (i : Instr) : ISet :=
  match i with
  | .mrcA32 _ _ => .a32
  | .mcrA32 _ _ => .a32
  | .mrcT32 _ => .t32
  | .mcrT32 _ => .t32

end Sys2Proof
end

