-- ==== Sys2Proof/Decode.lean ====
section
/-!
DEFINITION. From bytes to an instruction and back (30_encoding.md). The decoder is total and rejects by name; the
encoder is written from the same tables (R66 to R68). The positions of the fields in a word are general knowledge
of the spec's writer (log 13); the byte order of instruction fetch is the model's (log 12).
-/
namespace Sys2Proof

/-- Why bytes are no access to SDCR. Each is outside the spec (R70 d). -/
inductive DecodeError where
  /-- Fewer bytes than the instruction needs. -/
  | truncated
  /-- A T32 first halfword that begins no 4-byte instruction (R71). -/
  | t32Narrow
  /-- An A32 word whose `cond` is `0b1111` (R66). -/
  | condNotACondition
  /-- Not the `MRC`/`MCR` layout of R66, R67. -/
  | notRegisterTransfer
  /-- `MRC` or `MCR` to another tuple (R70 d). -/
  | otherTuple (tuple : SysRegTuple)
deriving DecidableEq, Repr

/-- SDCR's tuple (R61): coproc 15, opc1 0, CRn 1, CRm 3, opc2 1. -/
def sdcrTuple : SysRegTuple :=
  { coproc := 0b1111#4, opc1 := 0b000#3, crn := 0b0001#4, crm := 0b0011#4, opc2 := 0b001#3 }

/-- The tuple an instruction word holds (R66; R67 for `first : second`). -/
def wordTuple (w : Word) : SysRegTuple :=
  { coproc := w.extractLsb' 8 4
    opc1 := w.extractLsb' 21 3
    crn := w.extractLsb' 16 4
    crm := w.extractLsb' 0 4
    opc2 := w.extractLsb' 5 3 }

/-- `cond`, bits 31:28 (R66). -/
def wordCond (w : Word) : Nibble := w.extractLsb' 28 4

/-- `Rt`, bits 15:12 (R66, R67). -/
def wordRt (w : Word) : Nibble := w.extractLsb' 12 4

/-- `L`, bit 20: true is `MRC` (R66). -/
def wordIsRead (w : Word) : Bool := w.getLsbD 20

/-- Bits 27:24 are `1110` and bit 4 is 1: the register transfer layout (R66). -/
def wordIsRegisterTransfer (w : Word) : Bool := w.extractLsb' 24 4 == 0b1110#4 && w.getLsbD 4

/-- Bits 15:11 of a first halfword that begin a 4-byte T32 instruction (R71). -/
def t32IsWide (first : BitVec 16) : Bool :=
  first.extractLsb' 11 5 == 0b11101#5 || first.extractLsb' 11 5 == 0b11110#5
    || first.extractLsb' 11 5 == 0b11111#5

/-- Decode a 32-bit number: the A32 word, or `first : second` in T32 (R66 to R68). -/
def decodeWord (iset : ISet) (w : Word) : Except DecodeError Instr :=
  match iset with
  | .a32 =>
    if wordCond w = 0b1111#4 then .error .condNotACondition
    else if !wordIsRegisterTransfer w then .error .notRegisterTransfer
    else if wordTuple w ≠ sdcrTuple then .error (.otherTuple (wordTuple w))
    else if wordIsRead w then .ok (.mrcA32 (wordCond w) (wordRt w))
    else .ok (.mcrA32 (wordCond w) (wordRt w))
  | .t32 =>
    if !t32IsWide (w.extractLsb' 16 16) then .error .t32Narrow
    else if wordCond w ≠ 0b1110#4 || !wordIsRegisterTransfer w then .error .notRegisterTransfer
    else if wordTuple w ≠ sdcrTuple then .error (.otherTuple (wordTuple w))
    else if wordIsRead w then .ok (.mrcT32 (wordRt w))
    else .ok (.mcrT32 (wordRt w))

/-- The four bytes at rising addresses that hold a 32-bit number (PRESUMED little-endian, log 12): the A32 word; or
the first halfword, then the second (R67). -/
def wordBytes (iset : ISet) (w : Word) : List Byte :=
  match iset with
  | .a32 => [w.extractLsb' 0 8, w.extractLsb' 8 8, w.extractLsb' 16 8, w.extractLsb' 24 8]
  | .t32 => [w.extractLsb' 16 8, w.extractLsb' 24 8, w.extractLsb' 0 8, w.extractLsb' 8 8]

/-- The 32-bit number whose bytes are given, the least significant first. -/
def joinBytes (b0 b1 b2 b3 : Byte) : Word :=
  (b3.setWidth 32 <<< 24) ||| (b2.setWidth 32 <<< 16) ||| (b1.setWidth 32 <<< 8) ||| b0.setWidth 32

/-- The 32-bit number that four bytes at rising addresses hold (log 12). -/
def bytesWord (iset : ISet) (b0 b1 b2 b3 : Byte) : Word :=
  match iset with
  | .a32 => joinBytes b0 b1 b2 b3
  | .t32 => joinBytes b2 b3 b0 b1

/-- The halfword that two bytes at rising addresses hold (log 12). -/
def bytesHalf (b0 b1 : Byte) : BitVec 16 := (b1.setWidth 16 <<< 8) ||| b0.setWidth 16

/-- Decode the instruction at the head of a byte sequence, with the bytes after it. Both forms are 4 bytes long
(R71); a T32 halfword that begins no 4-byte instruction is rejected without looking further. -/
def decode (iset : ISet) (bytes : List Byte) : Except DecodeError (Instr × List Byte) :=
  match bytes with
  | b0 :: b1 :: b2 :: b3 :: rest =>
    match decodeWord iset (bytesWord iset b0 b1 b2 b3) with
    | .ok i => .ok (i, rest)
    | .error e => .error e
  | [b0, b1] => if iset = .t32 && !t32IsWide (bytesHalf b0 b1) then .error .t32Narrow else .error .truncated
  | [b0, b1, _] => if iset = .t32 && !t32IsWide (bytesHalf b0 b1) then .error .t32Narrow else .error .truncated
  | [_] => .error .truncated
  | [] => .error .truncated

/-- The 32-bit number of R66 and R67, field by field from bit 31: `cond` (or `1110` in T32), `1110`, opc1, `L`, CRn,
Rt, coproc, opc2, `1`, CRm. -/
def assembleWord (cond : Nibble) (isRead : Bool) (rt : Nibble) : Word :=
  cond ++ 0b1110#4 ++ sdcrTuple.opc1 ++ BitVec.ofBool isRead ++ sdcrTuple.crn ++ rt
    ++ sdcrTuple.coproc ++ sdcrTuple.opc2 ++ 0b1#1 ++ sdcrTuple.crm

/-- The 32-bit number of an instruction (R68). -/
def encodeWord (i : Instr) : Word :=
  match i with
  | .mrcA32 cond rt => assembleWord cond true rt
  | .mcrA32 cond rt => assembleWord cond false rt
  | .mrcT32 rt => assembleWord 0b1110#4 true rt
  | .mcrT32 rt => assembleWord 0b1110#4 false rt

/-- The bytes of an instruction in the order the memory holds them. -/
def encode (i : Instr) : List Byte := wordBytes i.iset (encodeWord i)

/-- The mask of an instruction's row in R68's table. -/
def rowMask (i : Instr) : Word :=
  match i with
  | .mrcA32 _ _ => 0x0FFF0FFF#32
  | .mcrA32 _ _ => 0x0FFF0FFF#32
  | .mrcT32 _ => 0xFFFF0FFF#32
  | .mcrT32 _ => 0xFFFF0FFF#32

/-- The match value of an instruction's row in R68's table. -/
def rowMatch (i : Instr) : Word :=
  match i with
  | .mrcA32 _ _ => 0x0E110F33#32
  | .mcrA32 _ _ => 0x0E010F33#32
  | .mrcT32 _ => 0xEE110F33#32
  | .mcrT32 _ => 0xEE010F33#32

/-- The tuple an assembler line names; an omitted `<opc2>` is 0 (R63). -/
def AsmLine.tuple (l : AsmLine) : SysRegTuple :=
  { coproc := l.coproc, opc1 := l.opc1, crn := l.crn, crm := l.crm, opc2 := l.opc2.getD 0b000#3 }

/-- Why an assembler line stands for no instruction of the model. Each is a refusal: nothing is claimed of the line. -/
inductive AsmError where
  /-- The line names another tuple (R63, R70 d). -/
  | otherTuple (tuple : SysRegTuple)
  /-- `0b1111` is no condition (R66), so no `<c>` spells it. -/
  | notACondition
  /-- A T32 line with a written `<c>` other than `AL` (R65, D6). -/
  | conditionNotAlways (cond : Nibble)
deriving DecidableEq, Repr

/-- The condition of a line; an omitted `<c>` is always (R65). -/
def AsmLine.condition (l : AsmLine) : Nibble := l.cond.getD 0b1110#4

/-- The instruction a line for SDCR stands for in A32, which keeps the condition in its word (R66); a condition other
than always is refused when the instruction is executed (R80). -/
def AsmLine.instrA32 (l : AsmLine) : Instr :=
  if l.isRead then .mrcA32 l.condition l.rt else .mcrA32 l.condition l.rt

/-- The instruction a line for SDCR stands for in T32, which has no condition field (R67). -/
def AsmLine.instrT32 (l : AsmLine) : Instr := if l.isRead then .mrcT32 l.rt else .mcrT32 l.rt

/-- The instruction an assembler line stands for when it names SDCR (R62, R63). The model admits only the always
condition, written or omitted (R65): any other is refused, in T32 here, since its word would lose the condition, and in
A32 when the instruction is executed (R80); that division is the model's (DESIGN CHOICE, log 33). `<q>` has no effect on
what the instruction does (R65). Whether a line with `.N` is an error is not in the spec (no 16-bit form exists, R71):
that it stands for the 4-byte instruction is the model's (DESIGN CHOICE, log 32). -/
def AsmLine.instr (iset : ISet) (l : AsmLine) : Except AsmError Instr :=
  if l.tuple ≠ sdcrTuple then .error (.otherTuple l.tuple)
  else if l.condition = 0b1111#4 then .error .notACondition
  else match iset with
    | .a32 => .ok l.instrA32
    | .t32 => if l.condition = 0b1110#4 then .ok l.instrT32 else .error (.conditionNotAlways l.condition)

/-- The instruction set in which the host's table word is read: the rows of the opcode table whose bits 31:28 are
fixed at `1110` are the T32 rows, every other word can only be an A32 row's (log 14). -/
def tableISet (w : Word) : ISet := if wordCond w = 0b1110#4 then .t32 else .a32

/-- The host's word: the low `nbits` bits of `w`, every bit above them 0. -/
def tableWord (nbits w : Nat) : Word := BitVec.ofNat 32 (w % 2 ^ nbits)

/-- The instruction the decoder reads from a word of spec/opcode_table.json, laid out as the memory holds it. -/
def decodeTableWord (nbits w : Nat) : Option Instr :=
  match decode (tableISet (tableWord nbits w)) (wordBytes (tableISet (tableWord nbits w)) (tableWord nbits w)) with
  | .ok (i, _) => some i
  | .error _ => none

end Sys2Proof
end

