-- ==== Sys2Proof/Config.lean ====
section
/-!
DEFINITION. What an implementation fixes (00_scope.md R7), as one plain structure, and the free values: the
`draw S` of R10, as opaque constants with no body, applied to the counter `State.draws` (log 17).
-/
namespace Sys2Proof

/-- A System register named by an access that TDCC or TTRF may trap (R21, R34). The six DCC names are the ones
R22 recalls as published (PRESUMED, log 5); `other` is any further register, by a number of the reader's own. -/
inductive RegName where
  | htrfcr
  | trfcr
  | dbgdtrrxExt
  | dbgdtrtxExt
  | dbgdscrInt
  | dbgdccint
  | dbgdtrrxInt
  | dbgdtrtxInt
  | other (n : Nat)
deriving DecidableEq, Repr

/-- The kinds of step of the enclosing machine that `Cfg.is_context_sync` is a predicate on (R59 c, D7). The four
named kinds are those R59(c) recalls as published (log 6). -/
inductive StepKind where
  | isb
  | exceptionEntry
  | exceptionReturn
  | debugStateExit
  | other (n : Nat)
deriving DecidableEq, Repr

/-- The implementation parameters of R7, one field each, in the table's order. -/
structure Config where
  /-- `HAVE_EL3`. -/
  haveEL3 : Bool
  /-- `EL3_AARCH32_CAPABLE`: whether the register is present (R3). -/
  el3AArch32Capable : Bool
  /-- `FEAT_MTPMU`. -/
  featMTPMU : Bool
  /-- `FEAT_FGT`. -/
  featFGT : Bool
  /-- `FEAT_PMUv3p5`. -/
  featPMUv3p5 : Bool
  /-- `FEAT_Debugv8p4`. -/
  featDebugv8p4 : Bool
  /-- `FEAT_Debugv8p2`. -/
  featDebugv8p2 : Bool
  /-- `FEAT_PMUv3`. -/
  featPMUv3 : Bool
  /-- `FEAT_TRF`. -/
  featTRF : Bool
  /-- `PMU_EXT_DEBUG_IF` (R26). -/
  pmuExtDebugIf : Bool
  /-- `IMPDEF_MTPME_AFFINITY` (R19). -/
  impdefMtpmeAffinity : Bool
  /-- `IMPDEF_EDAD_BLOCKS_OSLAR` (R32). -/
  impdefEdadBlocksOslar : Bool
  /-- `RES0_WRITABLE_MASK` (R16, D2). -/
  res0WritableMask : Word
  /-- `SDCR_RESET` (R52, D3). -/
  sdcrReset : Word
  /-- `DCC_TRAPPED_REGS` (R22, D13). -/
  dccTrappedRegs : List RegName
  /-- `DCC_DEBUGSTATE_EXEMPT_REGS` (R22, D13). -/
  dccDebugExemptRegs : List RegName
  /-- The registers R22 calls "the DCC data transfer registers" without naming them (log 5). -/
  dccDataTransferRegs : List RegName
  /-- `is_context_sync`: the kinds of enclosing step for which it holds (R59 c, D7). -/
  contextSyncSteps : List StepKind
deriving DecidableEq, Repr

/-- `draw {0b01, 0b00}` of R79: true keeps the reserved SPD value `0b01`, false stores `0b00` (D12). -/
opaque Config.drawSpdKept : Nat → Bool

/-- `draw {Undefined, the trap}` of R73: true takes the HSTR trap on an absent register (D4). -/
opaque Config.drawAbsentTrap : Nat → Bool

/-- `draw {TRUE, FALSE}` of R32: whether OSLAR_EL1 stays forbidden under an override in EDAD-C (D15). -/
opaque Config.drawOslarForbidden : Nat → Bool

/-- `draw ({SDCR} ∪ Stale)` of R59(b): which element an indirect read sees, as a number from which the element is
picked (D7). -/
opaque Config.drawSeen : Nat → Nat

end Sys2Proof
end

