-- ==== Sys2Proof/Machine/State.lean ====
section
/-!
DEFINITION. The state: SDCR and `Stale` (R13), the general registers (R49), the program counter (R50), the
configuration (R7) and the context inputs (R48) that every rule reads, the enclosing machine's instruction memory and
decoding state, and the model's own fields for draws, for the other agents' steps and for the answers of queries. The
reasons a step stops. The state right after reset.
-/
namespace Sys2Proof.Machine

/-- Exception levels, the values of `PSTATE.EL` (R11, R48). -/
inductive EL where
  | el0
  | el1
  | el2
  | el3
deriving DecidableEq, Repr

/-- The level of the signal `CP15SDISABLE2` (R48, R78). -/
inductive Signal where
  | low
  | high
deriving DecidableEq, Repr

/-- An access by an instruction to a System register (R21, R34): the register and the direction. Reads and writes are
both accesses (R34). -/
structure SysRegAccess where
  reg : RegName
  isWrite : Bool
deriving DecidableEq, Repr

/-- The context inputs of R48, in the table's order. A function of a number or of an access is held as the list of
the arguments at which it is 1. No relation between inputs is assumed (R48). -/
structure Ctx where
  /-- `PSTATE.EL`. -/
  el : EL
  /-- `IsCurrentSecurityState(SS_Secure)`. -/
  secure : Bool
  /-- The PE is in Monitor mode. -/
  monitorMode : Bool
  /-- `EL2Enabled()`. -/
  el2Enabled : Bool
  /-- `ELUsingAArch32(EL2)`. -/
  el2AArch32 : Bool
  /-- `ELUsingAArch32(EL3)`. -/
  el3AArch32 : Bool
  /-- `HSTR.T1`. -/
  hstrT1 : Bit
  /-- `HSTR_EL2.T1`. -/
  hstrEL2T1 : Bit
  /-- `CP15SDISABLE2`. -/
  cp15sdisable2 : Signal
  /-- The Effective value of `SCR.NS`. -/
  scrNsEff : Bit
  /-- The PE is in Debug state. -/
  debugState : Bool
  /-- `PMCR.DP`. -/
  pmcrDP : Bit
  /-- `SDER.SUIDEN`. -/
  sderSUIDEN : Bit
  /-- The n for which `PMEVTYPER<n>.MT` is 1. -/
  pmevtyperMT : List Nat
  /-- `ExternalSecureNoninvasiveDebugEnabled()`. -/
  extSecNoninvasiveDbgEn : Bool
  /-- The authentication interface overrides EPMAD (R28). -/
  authEpmadOverride : Bool
  /-- The authentication interface overrides EDAD (R31, R32). -/
  authEdadOverride : Bool
  /-- The authentication interface overrides STE (R36). -/
  authSteOverride : Bool
  /-- The authentication interface enables debug exceptions from EL3 (R41). -/
  authEl3DebugEnable : Bool
  /-- Another PE with the same level 1 Affinity has FEAT_MTPMU disabled (R19). -/
  otherPeMtpmuDisabled : Bool
  /-- The accesses that also generate a higher priority exception (R89). -/
  higherPriority : List SysRegAccess
deriving DecidableEq, Repr

/-- The eight one-bit fields of SDCR (R14). SPD, the two-bit field, is treated beside them. -/
inductive BitField where
  | mtpme
  | tdcc
  | sccd
  | epmad
  | edad
  | ttrf
  | ste
  | spme
deriving DecidableEq, Repr

/-- An Effective value (R42): a value, `NoControl` (the field is RES0 on this chip) or `NoMeaning` (no clause gives a
value, and the register is absent, or EL3 is using AArch64, D19). -/
inductive Eff (w : Nat) where
  | value (v : BitVec w)
  | noControl
  | noMeaning
deriving DecidableEq, Repr

/-- The class of debug register an external debugger's access names (R31). -/
inductive DebugClass where
  | breakpoint
  | watchpoint
  | oslarEL1
  | otherDebug
deriving DecidableEq, Repr

/-- The questions the enclosing machine and the external debugger may ask at any time (D21): each is an indirect read
of the register (R11, R46). -/
inductive Query where
  /-- `Eff.NAME` of a one-bit field (R42). -/
  | effBit (f : BitField)
  /-- `Eff.SPD` (R42). -/
  | effSpd
  /-- `Eff_PMEVTYPER_MT(n)` (R18). -/
  | pmevtyperMT (n : Nat)
  /-- `TDCC_Traps(acc)` (R21). -/
  | tdccTraps (acc : SysRegAccess)
  /-- `PMCCNTR_ProhibitedBySCCD` (R25). -/
  | pmccntrProhibitedBySccd
  /-- `ExtPMU_Forbidden(acc)`, with `acc.NonSecure` (R29). -/
  | extPmuForbidden (nonSecure : Bool)
  /-- `ExtDebug_Forbidden(acc)`, with `acc.class` and `acc.NonSecure` (R32). -/
  | extDebugForbidden (cls : DebugClass) (nonSecure : Bool)
  /-- `TTRF_Traps(acc)` (R34). -/
  | ttrfTraps (acc : SysRegAccess)
  /-- `SecureTrace_ProhibitedBySTE` (R36). -/
  | secureTraceProhibited
  /-- `EventCounting_ProhibitedBySPME` (R39). -/
  | eventCountingProhibited
  /-- `PMCCNTR_DisabledBySPME` (R39). -/
  | pmccntrDisabledBySpme
  /-- `PMCCNTR_ProhibitedBySCCD || PMCCNTR_DisabledBySPME` (R95). -/
  | pmccntrStopped
  /-- `EL3_DebugExceptionsEnabled` (R41). -/
  | el3DebugExceptionsEnabled
  /-- `SecureEL0_DebugExceptionsEnabled` (R41). -/
  | secureEL0DebugExceptionsEnabled
  /-- `BreakpointInstructionExceptionsEnabled` (R41). -/
  | breakpointInstructionExceptionsEnabled
deriving DecidableEq, Repr

/-- What a query answers. -/
inductive Answer where
  | truth (b : Bool)
  | bit (b : Bit)
  | effBit (e : Eff 1)
  | effSpd (e : Eff 2)
deriving DecidableEq, Repr

/-- What a step of the enclosing machine leaves in the state it owns: its program counter, general registers,
decoding state, and the instruction bytes it stores. It never writes SDCR (R43, R53). -/
structure EnclosingEffect where
  pc : Word
  x : Vector Word 15
  iset : ISet
  itCond : Option Nibble
  stores : List (Word × Byte)
deriving DecidableEq, Repr

/-- A step of a run (R12 item 9): the PE's next instruction, a step of the enclosing machine (a context
synchronisation step when `is_context_sync` holds of its kind), an access to a register TDCC or TTRF may guard, a
reset, a change of inputs, or a query (D21). -/
inductive Event where
  | instruction
  | enclosing (kind : StepKind) (effect : EnclosingEffect)
  | guardedAccess (acc : SysRegAccess)
  | reset
  | inputs (ctx : Ctx)
  | query (q : Query)
deriving DecidableEq, Repr

/-- The machine. -/
structure State where
  /-- The chip's configuration (R7). No step writes it (log 1). -/
  cfg : Config
  /-- The context inputs as they stand at this step (R48). -/
  ctx : Ctx
  /-- SDCR's architected value (R13). Where the register is absent no rule reads or writes it (R3, log 21). -/
  sdcr : Word
  /-- `Stale` (R59): earlier values not yet synchronised, a set held as a strictly rising list (log 18). -/
  stale : List Word
  /-- R0 to R14 (R49). Banking by mode is not in the source (R49, N19): one unbanked vector, which no change of
  Exception level, mode or Security state alters, is the model's (DESIGN CHOICE, log 31). -/
  x : Vector Word 15
  /-- The program counter, R15 (R49, R50). -/
  pc : Word
  /-- The instruction set the PE is decoding (R71). -/
  iset : ISet
  /-- The condition an IT block gives the next T32 instruction, if the PE is in one (R65, R67, log 10). -/
  itCond : Option Nibble
  /-- The enclosing machine's instruction bytes, by rising address (log 11). -/
  mem : List Host.Cell
  /-- The model's own: the number of the next free value (R10 `draw`, log 17). -/
  draws : Nat
  /-- The model's own: the steps still to come, first first; when empty the PE runs its next instruction (log 24). -/
  schedule : List Event
  /-- The model's own: the answer of the query asked last (log 22). -/
  lastAnswer : Option Answer
deriving DecidableEq, Repr

/-- Why a step ends a run: the outcomes of R82 other than `Completed` and `Refused`, which write no state of this
model (R82, R91, D26), and the model's own end of a run where no instruction is in memory. -/
inductive Fault where
  /-- `Undefined` (R85): raised by an access to SDCR (R73, R74, R78). Safe: nothing is claimed after it (log 15). -/
  | undefined
  /-- `SysAccessTrapA64(el, code)` (R83): raised at EL1 by R74 arms 1, 3 and 4. Safe (log 15). -/
  | sysAccessTrapA64 (el : EL) (code : Nat)
  /-- `HypTrap(code)` (R84): raised at EL1 by R74 arm 2. Safe (log 15). -/
  | hypTrap (code : Nat)
  /-- `MonitorTrap(acc)` (R86): raised by an access that TDCC or TTRF traps (R21, R34). Safe (log 15). -/
  | monitorTrap (acc : SysRegAccess)
  /-- No instruction stands in memory at `pc`: the enclosing machine issues no further step (R12 item 9). Raised by
  the fetch. Safe (log 11). -/
  | noInstruction (pc : Word)
deriving DecidableEq, Repr

/-- Why the model gives no meaning (R82 `Refused`): the model's verdict, not a behaviour of the chip. All are safe. -/
inductive Refusal where
  /-- An instruction of the table without a meaning in `exec`: none is left. Safe. -/
  | notModelled (mnemonic : String)
  /-- `Rt` is 13 or 15 (R80, D5). Raised by an access to SDCR. Safe (log 16). -/
  | rtNotAdmitted (rt : Nibble)
  /-- An A32 condition other than always (R65, R80, D6). Raised by an access to SDCR. Safe (log 16). -/
  | conditionNotAlways (cond : Nibble)
  /-- A T32 access inside an IT block, whatever condition the block gives it (R67, D6). Raised by an access to SDCR.
  Safe (log 10, log 16). -/
  | insideItBlock (cond : Nibble)
  /-- An access to SDCR in Debug state (R80, D25). Safe (log 16). -/
  | debugState
  /-- The bytes at `pc` are no access to SDCR (R70 d). Raised by the fetch. Safe (log 16). -/
  | notAnSdcrAccess
  /-- A query outside the domain of the field effects (R42 `NoMeaning`, R46, D19). Safe (log 22). -/
  | noMeaning
  /-- A query of SPD's predicates in Non-secure state (R41). Safe (log 23). -/
  | spdIgnoredInNonsecure
deriving DecidableEq, Repr

/-- The one answer type of a step. -/
abbrev Result := Host.Outcome State Fault Refusal

/-- The configuration `State.reset` names (log 2): the features of file 95's `CfgFull`; `SDCR_RESET` 0 (log 3); no
writable RES0 bit (log 4); the published DCC lists (log 5); the published synchronising steps (log 6). -/
def resetConfig : Config :=
  { haveEL3 := true
    el3AArch32Capable := true
    featMTPMU := true
    featFGT := true
    featPMUv3p5 := true
    featDebugv8p4 := true
    featDebugv8p2 := true
    featPMUv3 := true
    featTRF := true
    pmuExtDebugIf := true
    impdefMtpmeAffinity := false
    impdefEdadBlocksOslar := false
    res0WritableMask := 0#32
    sdcrReset := 0#32
    dccTrappedRegs := [.dbgdtrrxExt, .dbgdtrtxExt, .dbgdscrInt, .dbgdccint, .dbgdtrrxInt, .dbgdtrtxInt]
    dccDebugExemptRegs := [.dbgdtrrxInt, .dbgdtrtxInt]
    dccDataTransferRegs := [.dbgdtrrxInt, .dbgdtrtxInt]
    contextSyncSteps := [.isb, .exceptionEntry, .exceptionReturn, .debugStateExit] }

/-- The context inputs in `State.reset`: file 95's `CtxEL3` (log 7). -/
def resetCtx : Ctx :=
  { el := .el3
    secure := true
    monitorMode := true
    el2Enabled := false
    el2AArch32 := false
    el3AArch32 := true
    hstrT1 := 0#1
    hstrEL2T1 := 0#1
    cp15sdisable2 := .low
    scrNsEff := 0#1
    debugState := false
    pmcrDP := 0#1
    sderSUIDEN := 0#1
    pmevtyperMT := []
    extSecNoninvasiveDbgEn := false
    authEpmadOverride := false
    authEdadOverride := false
    authSteOverride := false
    authEl3DebugEnable := false
    otherPeMtpmuDisabled := false
    higherPriority := [] }

/-- The machine right after reset: `SDCR` is `Cfg.SDCR_RESET` and `Stale` is empty (R52, R98); every other value is
the model's, under the log entries of INVENTORY.md. -/
def State.reset : State :=
  { cfg := resetConfig
    ctx := resetCtx
    sdcr := resetConfig.sdcrReset
    stale := []
    x := Vector.replicate 15 0#32
    pc := 0#32
    iset := .a32
    itCond := none
    mem := []
    draws := 0
    schedule := []
    lastAnswer := none }

end Sys2Proof.Machine
end

