-- ==== Sys2Proof/Machine/Flags.lean ====
section
/-!
DEFINITION. Flags and conditions. No form of the two instructions that the spec admits reads or writes a condition
flag (R51), so no flag is computed; what is left is which condition an instruction carries and which one is admitted
(R65, R67, R80).
-/
namespace Sys2Proof.Machine

/-- The always condition, `AL` (R65, R66). -/
def condAlways : Nibble := 0b1110#4

/-- Why an A32 instruction with this condition is refused, if it is: only always is admitted (R65, D6). -/
def a32CondRefusal (cond : Nibble) : Option Refusal :=
  if cond = condAlways then none else some (.conditionNotAlways cond)

/-- Why a T32 instruction is refused, if it is: only outside an IT block is it admitted (R67, D6, log 10). -/
def t32CondRefusal (s : State) : Option Refusal :=
  match s.itCond with
  | none => none
  | some cond => some (.insideItBlock cond)

end Sys2Proof.Machine
end

