-- ==== Sys2Proof/Machine/Layout.lean ====
section
/-!
DEFINITION. The layout of SDCR (R14), which bits are fields on a chip and which description of a field applies (R15,
R16, R26, R30, R37), and the constraints on a configuration (R3, R7, R22, R52).
-/
namespace Sys2Proof.Machine

/-- `ALWAYS_RES0`: the bits that are RES0 in every configuration (R14, R23). -/
def alwaysRes0 : Word := 0xE7413FFF#32

/-- The position of a one-bit field (R14). -/
def BitField.pos (f : BitField) : Nat :=
  match f with
  | .mtpme => 28
  | .tdcc => 27
  | .sccd => 23
  | .epmad => 21
  | .edad => 20
  | .ttrf => 19
  | .ste => 18
  | .spme => 17

/-- When the bit is a field and not RES0 (R14). -/
def BitField.isField (f : BitField) (c : Config) : Bool :=
  match f with
  | .mtpme => c.featMTPMU
  | .tdcc => c.featFGT
  | .sccd => c.featPMUv3p5
  | .epmad => c.featPMUv3 && c.pmuExtDebugIf
  | .edad => true
  | .ttrf => c.featTRF
  | .ste => c.featTRF
  | .spme => c.featPMUv3

/-- The fields with an "If EL3 is not implemented ..." clause (R42). SPD, beside them, has one too. -/
def BitField.hasEffClause (f : BitField) : Bool :=
  match f with
  | .epmad => true
  | .edad => true
  | .ste => true
  | .spme => true
  | .mtpme => false
  | .tdcc => false
  | .sccd => false
  | .ttrf => false

/-- A one-bit field's stored bit (R14). -/
def fieldBit (v : Word) (f : BitField) : Bit := v.extractLsb' f.pos 1

/-- SPD, bits 15:14 (R14, R40). -/
def spdBits (v : Word) : BitVec 2 := v.extractLsb' 14 2

/-- `m` when `b`, else no bit: one line of R16's mask. -/
def maskIf (b : Bool) (m : Word) : Word := if b then m else 0#32

/-- `RES0_MASK(Cfg)` (R16). -/
def res0Mask (c : Config) : Word :=
  alwaysRes0
    ||| maskIf (!c.featMTPMU) 0x10000000#32
    ||| maskIf (!c.featFGT) 0x08000000#32
    ||| maskIf (!c.featPMUv3p5) 0x00800000#32
    ||| maskIf (!(c.featPMUv3 && c.pmuExtDebugIf)) 0x00200000#32
    ||| maskIf (!c.featTRF) 0x000C0000#32
    ||| maskIf (!c.featPMUv3) 0x00020000#32

/-- The RES0 bits fixed at 0: those outside `Cfg.RES0_WRITABLE_MASK` (R16 b, R52). -/
def fixedZero (c : Config) : Word := res0Mask c &&& ~~~c.res0WritableMask

/-- The descriptions of EPMAD (R26). -/
inductive EpmadVariant where
  | a
  | b
  | none
deriving DecidableEq, Repr

/-- The descriptions of EDAD (R30). -/
inductive EdadVariant where
  | a
  | b
  | c
deriving DecidableEq, Repr

/-- The descriptions of SPME (R37). -/
inductive SpmeVariant where
  | a
  | b
  | none
deriving DecidableEq, Repr

/-- The first description of EPMAD whose condition holds (R15, R26); bit 21 is a field in A and B only where the
Performance Monitors Extension supports external debug interface accesses. -/
def epmadVariant (c : Config) : EpmadVariant :=
  if c.featDebugv8p4 && c.featPMUv3 then .a else if c.featPMUv3 then .b else .none

/-- The first description of EDAD whose condition holds (R15, R30). -/
def edadVariant (c : Config) : EdadVariant :=
  if c.featDebugv8p4 then .a else if c.featDebugv8p2 then .b else .c

/-- The first description of SPME whose condition holds (R15, R37). -/
def spmeVariant (c : Config) : SpmeVariant :=
  if c.featPMUv3 && c.featDebugv8p2 then .a else if c.featPMUv3 then .b else .none

/-- A configuration a chip can have: R3's implication, R7's subset, R52's constraint on `SDCR_RESET`, and R22's "at
least": every DCC data transfer register in the trapped set is exempt in Debug state (D13). -/
def configWf (c : Config) : Bool :=
  (!c.el3AArch32Capable || c.haveEL3)
    && (c.res0WritableMask &&& ~~~(res0Mask c)) == 0#32
    && (c.sdcrReset &&& fixedZero c) == 0#32
    && c.dccTrappedRegs.all (fun r => !c.dccDataTransferRegs.contains r || c.dccDebugExemptRegs.contains r)

/-- Whether the register is present (R3). -/
def present (c : Config) : Bool := c.el3AArch32Capable

end Sys2Proof.Machine
end

