-- ==== Sys2Proof/Machine/Operands.lean ====
section
/-!
DEFINITION. The one operand, `<Rt>` (R64): which numbers are admitted, and the read and write of the general register
a number names (R49).
-/
namespace Sys2Proof.Machine

/-- `t` is 0 to 12 or 14 (R49, R80). -/
def rtAdmitted (rt : Nibble) : Bool := rt != 13#4 && rt != 15#4

/-- `x[i]` (R10). R15 is the program counter (R49, PRESUMED log 8); no admitted instruction reads it so. -/
def State.readX (s : State) (rt : Nibble) : Word :=
  if h : rt.toNat < 15 then s.x[rt.toNat] else s.pc

/-- `x[i] <- v` (R10). -/
def State.writeX (s : State) (rt : Nibble) (v : Word) : State :=
  if h : rt.toNat < 15 then { s with x := s.x.set rt.toNat v } else { s with pc := v }

end Sys2Proof.Machine
end

