-- ==== Sys2Proof/Machine/Ops.lean ====
section
/-!
DEFINITION. The shared operations: the instruction memory, the set `Stale`, raising an outcome, the checks of an
access to SDCR (R73, R74, R78, R80), the stored value (R79), the read and the write of the register, the context
synchronisation and the reset.
-/
namespace Sys2Proof.Machine

/-- The byte at an address; nothing where none has been written (log 11). -/
def memRead (m : List Host.Cell) (a : Nat) : Option Byte :=
  match m with
  | [] => none
  | (b, v) :: rest => if a = b then some v else memRead rest a

/-- Write one byte, keeping the addresses strictly rising (log 11). -/
def memWrite (m : List Host.Cell) (a : Nat) (v : Byte) : List Host.Cell :=
  match m with
  | [] => [(a, v)]
  | (b, w) :: rest =>
    if a < b then (a, v) :: (b, w) :: rest
    else if a = b then (a, v) :: rest
    else (b, w) :: memWrite rest a v

/-- Every address of the memory is above `lo - 1`, the addresses rise strictly, and all are below 2^32. -/
def memWfFrom (lo : Nat) (m : List Host.Cell) : Bool :=
  match m with
  | [] => true
  | (a, _) :: rest => decide (lo ≤ a) && decide (a < 2 ^ 32) && memWfFrom (a + 1) rest

/-- The canonical form of the memory: 32-bit addresses, strictly rising. An unlisted address holds no byte, so no
entry can equal what it reads as. -/
def memWf (m : List Host.Cell) : Bool := memWfFrom 0 m

/-- Write a run of bytes at rising addresses from `a`, wrapping at the top of the address space. -/
def memWriteBytes (m : List Host.Cell) (a : Word) (bytes : List Byte) : List Host.Cell :=
  match bytes with
  | [] => m
  | v :: rest => memWriteBytes (memWrite m a.toNat v) (a + 1#32) rest

/-- Write a list of single bytes, first first. -/
def memStores (m : List Host.Cell) (stores : List (Word × Byte)) : List Host.Cell :=
  match stores with
  | [] => m
  | (a, v) :: rest => memStores (memWrite m a.toNat v) rest

/-- `{v} ∪ Stale` (R59), keeping the list strictly rising, so that equal sets are equal lists (log 18). -/
def staleInsert (v : Word) (l : List Word) : List Word :=
  match l with
  | [] => [v]
  | w :: rest => if v.toNat < w.toNat then v :: w :: rest else if v = w then w :: rest else w :: staleInsert v rest

/-- The values of the list are at least `lo` and rise strictly. -/
def staleWfFrom (lo : Nat) (l : List Word) : Bool :=
  match l with
  | [] => true
  | w :: rest => decide (lo ≤ w.toNat) && staleWfFrom (w.toNat + 1) rest

/-- The canonical form of `Stale`: strictly rising. -/
def staleWf (l : List Word) : Bool := staleWfFrom 0 l

/-- `raise X(info)` (R10): the instruction ends with outcome X and no register is written. The spec gives no vector,
no saved state and no mode change for any of them (R91), and no return (R92), so an outcome ends the run (R12 item 9,
D10, D26); the state at the trap is the state before the instruction (R91). -/
def raise (f : Fault) : Result := .fault f

/-- The model's verdict that it gives no meaning (R80, R82). -/
def refuse (r : Refusal) : Result := .refused r

/-- The only code the spec gives, passed through unchanged (R74, R83, R84, R88). -/
def accessTrapCode : Nat := 0x03

/-- R74 arm 1 applies: EL2 enabled, using AArch64, `HSTR_EL2.T1` 1. -/
def hstrEL2Traps (c : Ctx) : Bool := c.el2Enabled && !c.el2AArch32 && c.hstrEL2T1 == 1#1

/-- R74 arm 2 applies: EL2 enabled, using AArch32, `HSTR.T1` 1. -/
def hstrTraps (c : Ctx) : Bool := c.el2Enabled && c.el2AArch32 && c.hstrT1 == 1#1

/-- The EL1 arms of the privilege check, in order (R74 arms 1 to 5). -/
def accessCheckEL1 (c : Ctx) : Fault :=
  if hstrEL2Traps c then .sysAccessTrapA64 .el2 accessTrapCode
  else if hstrTraps c then .hypTrap accessTrapCode
  else if c.el2Enabled && !c.el2AArch32 && c.secure then .sysAccessTrapA64 .el2 accessTrapCode
  else if !c.el3AArch32 && c.secure then .sysAccessTrapA64 .el3 accessTrapCode
  else .undefined

/-- `AccessCheck()` (R74): what it raises, or nothing at EL3. -/
def accessCheck (c : Ctx) : Option Fault :=
  match c.el with
  | .el0 => some .undefined
  | .el1 => some (accessCheckEL1 c)
  | .el2 => some .undefined
  | .el3 => none

/-- The access to an absent register on which both outcomes are admitted (R73, D4): EL1 under an HSTR trap. -/
def absentHstrCorner (c : Ctx) : Bool := c.el == .el1 && (hstrEL2Traps c || hstrTraps c)

/-- `PresenceCheck()` (R73): what it raises when the register is absent. In the corner the draw decides between
`Undefined` and the trap of R74 arm 1 or 2. -/
def presenceCheck (s : State) : Option Fault :=
  if present s.cfg then none
  else if absentHstrCorner s.ctx && Config.drawAbsentTrap s.draws then some (accessCheckEL1 s.ctx)
  else some .undefined

/-- `Refusals(t)` (R80), where `cr` is the refusal for the instruction's condition, if any (R65, R67). -/
def refusals (s : State) (cr : Option Refusal) (rt : Nibble) : Option Refusal :=
  if !rtAdmitted rt then some (.rtNotAdmitted rt)
  else match cr with
    | some r => some r
    | none => if s.ctx.debugState then some .debugState else none

/-- The checks both instructions share, in the order of R72 and R77, before what they do at EL3. -/
def sdcrAccess (s : State) (cr : Option Refusal) (rt : Nibble) (atEL3 : Result) : Result :=
  match refusals s cr rt with
  | some r => refuse r
  | none =>
    match presenceCheck s with
    | some f => raise f
    | none =>
      match accessCheck s.ctx with
      | some f => raise f
      | none => atEL3

/-- `pc <- pc + 4` (R50, R71). -/
def State.advancePc (s : State) : State := { s with pc := s.pc + 4#32 }

/-- `v` with SPD replaced (R79). -/
def withSpd (v : Word) (spd : BitVec 2) : Word := (v &&& 0xFFFF3FFF#32) ||| (spd.setWidth 32 <<< 14)

/-- `v1` of R79: fields and writable RES0 bits keep what was written, the other RES0 bits stay 0. -/
def keptBits (c : Config) (v : Word) : Word := v &&& (~~~(res0Mask c) ||| c.res0WritableMask)

/-- `StoredValue(v)` (R79), with the draw of the reserved SPD value given (D12). -/
def storedValue (c : Config) (spdKept : Bool) (v : Word) : Word :=
  if spdBits (keptBits c v) = 0b01#2 then withSpd (keptBits c v) (if spdKept then 0b01#2 else 0b00#2)
  else keptBits c v

/-- The write of the register: `Stale <- Stale ∪ {SDCR}; SDCR <- v` (R59, R77). The draw it may have used is spent. -/
def State.storeSdcr (s : State) (v : Word) : State :=
  { s with stale := staleInsert s.sdcr s.stale, sdcr := v, draws := s.draws + 1 }

/-- `MRC_SDCR(t)` (R72, R76); `cr` as in `refusals`. -/
def mrcSdcr (cr : Option Refusal) (rt : Nibble) (s : State) : Result :=
  sdcrAccess s cr rt (.next (s.writeX rt s.sdcr).advancePc)

/-- `MCR_SDCR(t)` (R77, R78); `cr` as in `refusals`. -/
def mcrSdcr (cr : Option Refusal) (rt : Nibble) (s : State) : Result :=
  sdcrAccess s cr rt
    (if s.ctx.cp15sdisable2 = .high then raise .undefined
     else .next (s.storeSdcr (storedValue s.cfg (Config.drawSpdKept s.draws) (s.readX rt))).advancePc)

/-- A context synchronisation event: `Stale <- ∅` (R59 b). -/
def State.synchronise (s : State) : State := { s with stale := [] }

/-- `Reset()` (R98): on a present register SDCR takes `Cfg.SDCR_RESET` and `Stale` is emptied; an absent one has no
state to reset (D4). Every other part of the state is the enclosing machine's to set (R100, log 24). -/
def State.applyReset (s : State) : State :=
  if present s.cfg then { s with sdcr := s.cfg.sdcrReset, stale := [] } else s

/-- What a step of the enclosing machine leaves in the state it owns (log 24). -/
def State.applyEnclosing (s : State) (e : EnclosingEffect) : State :=
  { s with pc := e.pc, x := e.x, iset := e.iset, itCond := e.itCond, mem := memStores s.mem e.stores }

end Sys2Proof.Machine
end

