-- ==== Sys2Proof/Machine/Controls.lean ====
section
/-!
DEFINITION. What SDCR does to the rest of the PE: Effective values (R42) and the control predicates (R18 to R41, R95),
as functions of the configuration, the inputs and the value an indirect read sees; the domain in which they mean
anything (R46); and the query that draws that value (R59 b).
-/
namespace Sys2Proof.Machine

/-- `NoEL3_Secure` (R42). -/
def noEL3Secure (c : Config) (x : Ctx) : Bool := !c.haveEL3 && x.scrNsEff == 0#1

/-- `Eff.NAME` of a one-bit field, where an indirect read sees `seen` (R42). While EL3 is using AArch64 the register
gives no value (D19, log 22). -/
def effBit (c : Config) (x : Ctx) (seen : Word) (f : BitField) : Eff 1 :=
  if !f.isField c then .noControl
  else if f.hasEffClause && noEL3Secure c x then .value 1#1
  else if present c && x.el3AArch32 then .value (fieldBit seen f)
  else .noMeaning

/-- `Eff.SPD` (R42), while EL3 is not using AArch64 (D19, log 22). -/
def effSpd (c : Config) (x : Ctx) (seen : Word) : Eff 2 :=
  if noEL3Secure c x then .value 0b11#2
  else if present c && x.el3AArch32 then .value (spdBits seen)
  else .noMeaning

/-- The Effective value is a value and is `v`. -/
def Eff.is {w : Nat} (e : Eff w) (v : BitVec w) : Bool := e == .value v

/-- The domain of the field effects (R46): the register present and EL3 using AArch32, or `NoEL3_Secure` for a field
with an Effective-value clause. -/
def inDomain (c : Config) (x : Ctx) (hasClause : Bool) : Bool :=
  (present c && x.el3AArch32) || (noEL3Secure c x && hasClause)

/-- `AffinityForces0` (R19). -/
def affinityForces0 (c : Config) (x : Ctx) : Bool := c.impdefMtpmeAffinity && x.otherPeMtpmuDisabled

/-- `MTPME_acts_as_0` (R18). -/
def mtpmeActsAs0 (c : Config) (x : Ctx) (seen : Word) : Bool :=
  c.featMTPMU && ((effBit c x seen .mtpme).is 0#1 || affinityForces0 c x)

/-- `Ctx.PMEVTYPER_MT(n)` (R48). -/
def Ctx.mtBit (x : Ctx) (n : Nat) : Bit := if x.pmevtyperMT.contains n then 1#1 else 0#1

/-- `Eff_PMEVTYPER_MT(n)` (R18). -/
def effPmevtyperMT (c : Config) (x : Ctx) (seen : Word) (n : Nat) : Bit :=
  if mtpmeActsAs0 c x seen then 0#1 else x.mtBit n

/-- `TDCC_Set(debug_state)` (R22): whether the register is in it. -/
def inTdccSet (c : Config) (debugState : Bool) (r : RegName) : Bool :=
  c.dccTrappedRegs.contains r && !(debugState && c.dccDebugExemptRegs.contains r)

/-- `TDCC_Traps(acc)` (R21). -/
def tdccTraps (c : Config) (x : Ctx) (seen : Word) (acc : SysRegAccess) : Bool :=
  c.featFGT && (effBit c x seen .tdcc).is 1#1 && !x.monitorMode && inTdccSet c x.debugState acc.reg
    && !x.higherPriority.contains acc

/-- `PMCCNTR_ProhibitedBySCCD` (R25). -/
def pmccntrProhibitedBySccd (c : Config) (x : Ctx) (seen : Word) : Bool :=
  c.featPMUv3p5 && (effBit c x seen .sccd).is 1#1 && (x.secure || x.el == .el3)

/-- `ExtPMU_Forbidden(acc)` (R27 to R29). -/
def extPmuForbidden (c : Config) (x : Ctx) (seen : Word) (nonSecure : Bool) : Bool :=
  if !(c.featPMUv3 && c.pmuExtDebugIf) then false
  else match epmadVariant c with
    | .a => nonSecure && (effBit c x seen .epmad).is 1#1
    | .b => (effBit c x seen .epmad).is 1#1 && !x.authEpmadOverride
    | .none => false

/-- `Guarded(acc)` (R31). -/
def DebugClass.guarded (cls : DebugClass) : Bool :=
  match cls with
  | .breakpoint => true
  | .watchpoint => true
  | .oslarEL1 => true
  | .otherDebug => false

/-- `ExtDebug_Forbidden_C(acc)` (R32), with the draw of its last arm given. -/
def extDebugForbiddenC (c : Config) (x : Ctx) (seen : Word) (drawn : Bool) (cls : DebugClass) : Bool :=
  match cls with
  | .breakpoint => (effBit c x seen .edad).is 1#1 && !x.authEdadOverride
  | .watchpoint => (effBit c x seen .edad).is 1#1 && !x.authEdadOverride
  | .oslarEL1 =>
    if (effBit c x seen .edad).is 0#1 || !c.impdefEdadBlocksOslar then false
    else if !x.authEdadOverride then true
    else drawn
  | .otherDebug => false

/-- `ExtDebug_Forbidden(acc)` (R31, R32). -/
def extDebugForbidden (c : Config) (x : Ctx) (seen : Word) (drawn : Bool) (cls : DebugClass) (nonSecure : Bool) :
    Bool :=
  match edadVariant c with
  | .a => cls.guarded && nonSecure && (effBit c x seen .edad).is 1#1
  | .b => cls.guarded && (effBit c x seen .edad).is 1#1 && !x.authEdadOverride
  | .c => extDebugForbiddenC c x seen drawn cls

/-- `acc.reg ∈ {HTRFCR, TRFCR}` (R34). -/
def isTraceFilterReg (r : RegName) : Bool := r == .htrfcr || r == .trfcr

/-- `TTRF_Traps(acc)` (R34). -/
def ttrfTraps (c : Config) (x : Ctx) (seen : Word) (acc : SysRegAccess) : Bool :=
  c.featTRF && (effBit c x seen .ttrf).is 1#1 && !x.monitorMode && isTraceFilterReg acc.reg
    && !x.higherPriority.contains acc

/-- `SecureTrace_ProhibitedBySTE` (R36). -/
def secureTraceProhibited (c : Config) (x : Ctx) (seen : Word) : Bool :=
  c.featTRF && x.secure && (effBit c x seen .ste).is 0#1 && !x.authSteOverride

/-- `EventCounting_ProhibitedBySPME` (R38, R39). -/
def eventCountingProhibited (c : Config) (x : Ctx) (seen : Word) : Bool :=
  match spmeVariant c with
  | .a => x.secure && (effBit c x seen .spme).is 0#1
  | .b => x.secure && (effBit c x seen .spme).is 0#1 && !x.extSecNoninvasiveDbgEn
  | .none => false

/-- `PMCCNTR_DisabledBySPME` (R38, R39): in both variants the event counting predicate and `PMCR.DP` 1. -/
def pmccntrDisabledBySpme (c : Config) (x : Ctx) (seen : Word) : Bool :=
  eventCountingProhibited c x seen && x.pmcrDP == 1#1

/-- `EL3_DebugExceptionsEnabled` (R41): the reserved `0b01` acts as `0b00` (R40). -/
def el3DebugExceptionsEnabled (c : Config) (x : Ctx) (seen : Word) : Bool :=
  match effSpd c x seen with
  | .value v => if v = 0b10#2 then false else if v = 0b11#2 then true else x.authEl3DebugEnable
  | .noControl => false
  | .noMeaning => false

/-- `SecureEL0_DebugExceptionsEnabled` (R41, D14). -/
def secureEL0DebugExceptionsEnabled (c : Config) (x : Ctx) (seen : Word) : Bool :=
  el3DebugExceptionsEnabled c x seen || x.sderSUIDEN == 1#1

/-- The `k`-th element of the non-empty set `{v} ∪ l`, counting round. -/
def pick (v : Word) (l : List Word) (k : Nat) : Word :=
  match l with
  | [] => v
  | w :: rest => (v :: w :: rest).getD (k % (rest.length + 2)) v

/-- `SDCR_seen`, drawn afresh with draw number `k` (R13, R59 b). -/
def State.seen (s : State) (k : Nat) : Word := pick s.sdcr s.stale (Config.drawSeen k)

/-- Answer a predicate in the domain of a field with or without an Effective-value clause; outside it there is no
meaning (R42, R46, D19). -/
def inDomainOnly (s : State) (hasClause : Bool) (b : Bool) : Except Refusal Answer :=
  if inDomain s.cfg s.ctx hasClause then .ok (.truth b) else .error .noMeaning

/-- SPD's two predicates are consulted in Secure state only (R41). -/
def inSecureOnly (s : State) (b : Bool) : Except Refusal Answer :=
  if !inDomain s.cfg s.ctx true then .error .noMeaning
  else if !s.ctx.secure then .error .spdIgnoredInNonsecure
  else .ok (.truth b)

/-- The answer to a query. Each indirect read of a field draws the value it sees (R59 b); a query that reads two
fields draws twice. -/
def answer (s : State) (q : Query) : Except Refusal Answer :=
  match q with
  | .effBit f => .ok (.effBit (effBit s.cfg s.ctx (s.seen s.draws) f))
  | .effSpd => .ok (.effSpd (effSpd s.cfg s.ctx (s.seen s.draws)))
  | .pmevtyperMT n =>
    if inDomain s.cfg s.ctx false then .ok (.bit (effPmevtyperMT s.cfg s.ctx (s.seen s.draws) n))
    else .error .noMeaning
  | .tdccTraps acc => inDomainOnly s false (tdccTraps s.cfg s.ctx (s.seen s.draws) acc)
  | .pmccntrProhibitedBySccd => inDomainOnly s false (pmccntrProhibitedBySccd s.cfg s.ctx (s.seen s.draws))
  | .extPmuForbidden ns => inDomainOnly s true (extPmuForbidden s.cfg s.ctx (s.seen s.draws) ns)
  | .extDebugForbidden cls ns =>
    inDomainOnly s true
      (extDebugForbidden s.cfg s.ctx (s.seen s.draws) (Config.drawOslarForbidden s.draws) cls ns)
  | .ttrfTraps acc => inDomainOnly s false (ttrfTraps s.cfg s.ctx (s.seen s.draws) acc)
  | .secureTraceProhibited => inDomainOnly s true (secureTraceProhibited s.cfg s.ctx (s.seen s.draws))
  | .eventCountingProhibited => inDomainOnly s true (eventCountingProhibited s.cfg s.ctx (s.seen s.draws))
  | .pmccntrDisabledBySpme => inDomainOnly s true (pmccntrDisabledBySpme s.cfg s.ctx (s.seen s.draws))
  | .pmccntrStopped =>
    inDomainOnly s false
      (pmccntrProhibitedBySccd s.cfg s.ctx (s.seen s.draws)
        || pmccntrDisabledBySpme s.cfg s.ctx (s.seen (s.draws + 1)))
  | .el3DebugExceptionsEnabled => inSecureOnly s (el3DebugExceptionsEnabled s.cfg s.ctx (s.seen s.draws))
  | .secureEL0DebugExceptionsEnabled =>
    inSecureOnly s (secureEL0DebugExceptionsEnabled s.cfg s.ctx (s.seen s.draws))
  | .breakpointInstructionExceptionsEnabled => inDomainOnly s true true

/-- Ask a query: its answer is recorded and two draws are spent (log 17, log 22). -/
def ask (q : Query) (s : State) : Result :=
  match answer s q with
  | .ok a => .next { s with lastAnswer := some a, draws := s.draws + 2 }
  | .error r => refuse r

/-- TDCC or TTRF may guard the register an access names (R21, R22, R34). -/
def guardsReg (c : Config) (r : RegName) : Bool := c.dccTrappedRegs.contains r || isTraceFilterReg r

/-- An access by an instruction of the enclosing machine (R21, R34, R82): it raises the Monitor Trap exception when
TDCC or TTRF traps it; otherwise SDCR has no say and it goes on in the enclosing machine. A register that neither
field guards is never trapped by them (log 25). -/
def guardedAccess (acc : SysRegAccess) (s : State) : Result :=
  if !guardsReg s.cfg acc.reg then .next s
  else if !inDomain s.cfg s.ctx false then refuse .noMeaning
  else if tdccTraps s.cfg s.ctx (s.seen s.draws) acc || ttrfTraps s.cfg s.ctx (s.seen (s.draws + 1)) acc then
    raise (.monitorTrap acc)
  else .next { s with draws := s.draws + 2 }

end Sys2Proof.Machine
end

