-- ==== Sys2Proof/Machine/SysReg.lean ====
section
/-!
DEFINITION. The meanings of the four rows of spec/opcode_table.json (40_sysreg_access.md). The access does not depend
on the instruction set (R71); only where the condition comes from does (R65 to R67).
-/
namespace Sys2Proof.Machine

/-- `MRC<c> p15, 0, <Rt>, c1, c3, 1` in A32 (R72, R66). -/
def execMrcA32 (cond rt : Nibble) (s : State) : Result := mrcSdcr (a32CondRefusal cond) rt s

/-- `MCR<c> p15, 0, <Rt>, c1, c3, 1` in A32 (R77, R66). -/
def execMcrA32 (cond rt : Nibble) (s : State) : Result := mcrSdcr (a32CondRefusal cond) rt s

/-- `MRC p15, 0, <Rt>, c1, c3, 1` in T32 (R72, R67). -/
def execMrcT32 (rt : Nibble) (s : State) : Result := mrcSdcr (t32CondRefusal s) rt s

/-- `MCR p15, 0, <Rt>, c1, c3, 1` in T32 (R77, R67). -/
def execMcrT32 (rt : Nibble) (s : State) : Result := mcrSdcr (t32CondRefusal s) rt s

end Sys2Proof.Machine
end

