-- ==== Sys2Proof/Machine/Fetch.lean ====
section
/-!
DEFINITION. Fetching and running the instruction at the program counter, and the steps of the other agents (R12 items
1 and 9). Step.lean only calls these.
-/
namespace Sys2Proof.Machine

/-- Up to `n` bytes of memory from `a` on, stopping where none is; addresses wrap (log 9, log 11). -/
def fetchBytes (m : List Host.Cell) (a : Word) (n : Nat) : List Byte :=
  match n with
  | 0 => []
  | k + 1 =>
    match memRead m a.toNat with
    | none => []
    | some v => v :: fetchBytes m (a + 1#32) k

/-- The bytes of the next instruction: at most 4 (R71). -/
def State.nextBytes (s : State) : List Byte := fetchBytes s.mem s.pc 4

/-- Run the instruction at the program counter. Bytes that are no access to SDCR are the enclosing machine's, outside
the spec (R70 d); where no whole instruction is in memory no further step is issued (R12 item 9). -/
def runInstruction (s : State) : Result :=
  match decode s.iset s.nextBytes with
  | .ok (i, _) => exec i s
  | .error e => if e = .truncated then raise (.noInstruction s.pc) else refuse .notAnSdcrAccess

/-- A step of the enclosing machine: it leaves what it leaves in its own state, and empties `Stale` when
`is_context_sync` holds of its kind (R59 b, c). -/
def enclosingStep (kind : StepKind) (e : EnclosingEffect) (s : State) : Result :=
  if s.cfg.contextSyncSteps.contains kind then .next (s.applyEnclosing e).synchronise else .next (s.applyEnclosing e)

/-- One step of a run (R12 item 9). -/
def runEvent (e : Event) (s : State) : Result :=
  match e with
  | .instruction => runInstruction s
  | .enclosing kind effect => enclosingStep kind effect s
  | .guardedAccess acc => guardedAccess acc s
  | .reset => .next s.applyReset
  | .inputs c => .next { s with ctx := c }
  | .query q => ask q s

/-- The step the schedule gives next, an instruction when it gives none (log 24). -/
def State.nextEvent (s : State) : Event := s.schedule.headD .instruction

/-- The state with that step taken off the schedule. -/
def State.popEvent (s : State) : State := { s with schedule := s.schedule.tail }

/-- The state with a 32-bit number of the opcode table stored at the program counter, in the instruction set its row
belongs to, and an instruction as the step to come (log 14). -/
def State.placeWord (s : State) (w : Word) : State :=
  { s with
    mem := memWriteBytes s.mem s.pc (wordBytes (tableISet w) w)
    iset := tableISet w
    schedule := .instruction :: s.schedule }

end Sys2Proof.Machine
end

