-- ==== Sys2Proof/Machine/Step.lean ====
section
/-!
DEFINITION. One step of the machine, and the placing of a word where the next step fetches it.
-/
namespace Sys2Proof.Machine

/-- One step of a run (R12 item 9): the step the schedule gives, or the PE's next instruction. -/
def step (s : State) : Host.Outcome State Fault Refusal := runEvent s.nextEvent s.popEvent

/-- The state whose next step fetches and runs the table's word `w` (log 14). -/
def State.withFetchWord (s : State) (nbits w : Nat) : State := s.placeWord (tableWord nbits w)

end Sys2Proof.Machine
end

