-- ==== Sys2Proof/Safety.lean ====
section
/-!
DEFINITION. What a good state is, and the runs claims speak of.
-/
namespace Sys2Proof.Machine

/-- The invariant of the machine: a configuration a chip can have (R3, R7, R22, R52); the RES0 bits outside
`Cfg.RES0_WRITABLE_MASK` at 0, in SDCR and in every value an indirect read may still see (R16, R52, R76); `Stale` and
the memory in their canonical forms (log 18, log 11). -/
structure State.Inv (s : State) : Prop where
  configIsWf : configWf s.cfg = true
  sdcrFixedZero : present s.cfg = true → s.sdcr &&& fixedZero s.cfg = 0#32
  staleFixedZero : present s.cfg = true → ∀ v ∈ s.stale, v &&& fixedZero s.cfg = 0#32
  staleIsWf : staleWf s.stale = true
  memIsWf : memWf s.mem = true

/-- `k` steps from `s` lead to `t`, every one of them completing. -/
def runsTo (k : Nat) (s t : State) : Prop :=
  match k with
  | 0 => s = t
  | n + 1 => ∃ u, step s = .next u ∧ runsTo n u t

/-- The number `t` of an instruction's general register (R64). -/
def rtOf (i : Instr) : Nibble :=
  match i with
  | .mrcA32 _ rt => rt
  | .mcrA32 _ rt => rt
  | .mrcT32 rt => rt
  | .mcrT32 rt => rt

/-- The spec executes the instruction under the condition it has in this state: an A32 `cond` of always (R65), a T32
instruction outside an IT block (R67, D6). -/
def condAdmitted (i : Instr) (s : State) : Bool :=
  match i with
  | .mrcA32 cond _ => cond == 0b1110#4
  | .mcrA32 cond _ => cond == 0b1110#4
  | .mrcT32 _ => s.itCond.isNone
  | .mcrT32 _ => s.itCond.isNone

/-- The instruction is the write, `MCR` (R62). -/
def isWrite (i : Instr) : Bool :=
  match i with
  | .mrcA32 _ _ => false
  | .mcrA32 _ _ => true
  | .mrcT32 _ => false
  | .mcrT32 _ => true

/-- None of R80's refusals applies to the instruction in this state. -/
abbrev State.notRefused (s : State) (i : Instr) : Prop :=
  rtOf i ≠ 13#4 ∧ rtOf i ≠ 15#4 ∧ condAdmitted i s = true ∧ s.ctx.debugState = false

/-- The conditions under which both instructions get past the checks they share: no refusal (R80), the register
present (R73), EL3 (R74). -/
abbrev State.admitsAccess (s : State) (i : Instr) : Prop :=
  s.notRefused i ∧ s.cfg.el3AArch32Capable = true ∧ s.ctx.el = .el3

/-- The next step of the run is the PE's, and the bytes at its program counter decode to `i`. -/
def State.runsInstr (s : State) (i : Instr) : Prop :=
  s.nextEvent = .instruction ∧ ∃ rest, decode s.iset s.nextBytes = .ok (i, rest)

/-- The next step of the run is one that may write SDCR: a reset or an `MCR` (R43, R53). -/
def State.mayWriteSdcr (s : State) : Prop :=
  s.nextEvent = .reset ∨ ∃ i, s.runsInstr i ∧ isWrite i = true

/-- The fields govern the PE: EL3 is implemented, capable of AArch32 (R3) and using it (R46 a). -/
abbrev State.fieldsGovern (s : State) : Prop :=
  s.cfg.haveEL3 = true ∧ s.cfg.el3AArch32Capable = true ∧ s.ctx.el3AArch32 = true

/-- The fields with an Effective-value clause, EPMAD, EDAD, STE, SPME and SPD, govern the PE: as above, or EL3 is not
implemented and the Effective value of `SCR.NS` is 0 (R46 b, R42). -/
abbrev State.clauseFieldsGovern (s : State) : Prop :=
  s.fieldsGovern ∨ (s.cfg.haveEL3 = false ∧ s.ctx.scrNsEff = 0#1)

/-- The query reads MTPME, TDCC, SCCD or TTRF, the fields without an Effective-value clause (R42, R46 b). -/
def Query.readsNoClauseField (q : Query) : Bool :=
  match q with
  | .pmevtyperMT _ => true
  | .tdccTraps _ => true
  | .pmccntrProhibitedBySccd => true
  | .ttrfTraps _ => true
  | .pmccntrStopped => true
  | .effBit _ => false
  | .effSpd => false
  | .extPmuForbidden _ => false
  | .extDebugForbidden _ _ => false
  | .secureTraceProhibited => false
  | .eventCountingProhibited => false
  | .pmccntrDisabledBySpme => false
  | .el3DebugExceptionsEnabled => false
  | .secureEL0DebugExceptionsEnabled => false
  | .breakpointInstructionExceptionsEnabled => false

/-- `v` is a value that an indirect read may see: SDCR or an element of `Stale` (R59 b). -/
def State.maySee (s : State) (v : Word) : Prop := v = s.sdcr ∨ v ∈ s.stale

/-- One row of R75's table: a column left out stands for either value. -/
structure El1Row where
  e2 : Bool
  a2 : Option Bool
  hstrEL2 : Option Bit
  hstr : Option Bit
  s : Option Bool
  a3 : Option Bool
  outcome : Fault
deriving DecidableEq, Repr

/-- The ten rows of R75, in the table's order. -/
def el1Rows : List El1Row :=
  [ ⟨true, some false, some 1#1, none, none, none, .sysAccessTrapA64 .el2 0x03⟩,
    ⟨true, some true, none, some 1#1, none, none, .hypTrap 0x03⟩,
    ⟨true, some false, some 0#1, none, some true, none, .sysAccessTrapA64 .el2 0x03⟩,
    ⟨true, some false, some 0#1, none, some false, none, .undefined⟩,
    ⟨true, some true, none, some 0#1, some true, some false, .sysAccessTrapA64 .el3 0x03⟩,
    ⟨true, some true, none, some 0#1, some true, some true, .undefined⟩,
    ⟨true, some true, none, some 0#1, some false, none, .undefined⟩,
    ⟨false, none, none, none, some true, some false, .sysAccessTrapA64 .el3 0x03⟩,
    ⟨false, none, none, none, some true, some true, .undefined⟩,
    ⟨false, none, none, none, some false, none, .undefined⟩ ]

/-- The inputs are in the row: each column given has the value given. -/
def El1Row.covers (r : El1Row) (c : Ctx) : Bool :=
  r.e2 == c.el2Enabled && r.a2.all (· == c.el2AArch32) && r.hstrEL2.all (· == c.hstrEL2T1)
    && r.hstr.all (· == c.hstrT1) && r.s.all (· == c.secure) && r.a3.all (· == c.el3AArch32)

end Sys2Proof.Machine
end

