-- ==== Sys2Proof/Certificates/Slice0/Obligations.lean ====
section
/-!
DEFINITION. The statements for the provers. Every statement about a state holds for every configuration (R7) and every
value of the inputs (R48), since both are part of the state, and for every outcome of the draws (R10), since those are
opaque.
-/
open Sys2Proof Sys2Proof.Machine

/-! The two instructions: what a completed one does, in both instruction sets. -/

/-- R72, R76: an admitted read at EL3 of a present register completes; SDCR is copied whole into `x[t]`, the program
counter moves past the instruction (R50), and nothing else changes. -/
def Obligations.MrcCompletesAndCopiesSdcr : Prop :=
  ∀ (s : State) (cond rt : Nibble) (h : rt.toNat < 15),
    (s.admitsAccess (.mrcA32 cond rt) →
      exec (.mrcA32 cond rt) s = .next { s with x := s.x.set rt.toNat s.sdcr h, pc := s.pc + 4#32 }) ∧
    (s.admitsAccess (.mrcT32 rt) →
      exec (.mrcT32 rt) s = .next { s with x := s.x.set rt.toNat s.sdcr h, pc := s.pc + 4#32 })

/-- R77: an admitted write at EL3 of a present register, with `CP15SDISABLE2` low, completes: the old value joins
`Stale` (R59), SDCR takes the stored value of `x[t]`, the program counter moves past the instruction, one draw is
spent (the model's counter, log 17), and nothing else changes. -/
def Obligations.McrCompletesAndStores : Prop :=
  ∀ (s : State) (cond rt : Nibble) (h : rt.toNat < 15), s.ctx.cp15sdisable2 = .low →
    (s.admitsAccess (.mcrA32 cond rt) →
      exec (.mcrA32 cond rt) s = .next
        { s with
          sdcr := storedValue s.cfg (Config.drawSpdKept s.draws) s.x[rt.toNat]
          stale := staleInsert s.sdcr s.stale
          draws := s.draws + 1
          pc := s.pc + 4#32 }) ∧
    (s.admitsAccess (.mcrT32 rt) →
      exec (.mcrT32 rt) s = .next
        { s with
          sdcr := storedValue s.cfg (Config.drawSpdKept s.draws) s.x[rt.toNat]
          stale := staleInsert s.sdcr s.stale
          draws := s.draws + 1
          pc := s.pc + 4#32 })

/-- R79, bit by bit: whatever `x[t]` holds, the write completes; a field bit and a writable RES0 bit store what was
written, any other RES0 bit stores 0; SPD stores what was written, except that the reserved `0b01` may be stored as
`0b01` or as `0b00`. -/
def Obligations.McrStoresEachBitAsWritten : Prop :=
  ∀ (s : State) (i : Instr) (h : (rtOf i).toNat < 15), isWrite i = true → s.admitsAccess i →
    s.ctx.cp15sdisable2 = .low →
    ∃ t, exec i s = .next t ∧
      (∀ n, n < 32 → n ≠ 14 → t.sdcr.getLsbD n =
        (s.x[(rtOf i).toNat].getLsbD n && (!(res0Mask s.cfg).getLsbD n || s.cfg.res0WritableMask.getLsbD n))) ∧
      (spdBits s.x[(rtOf i).toNat] ≠ 0b01#2 → spdBits t.sdcr = spdBits s.x[(rtOf i).toNat]) ∧
      (spdBits s.x[(rtOf i).toNat] = 0b01#2 → spdBits t.sdcr = 0b01#2 ∨ spdBits t.sdcr = 0b00#2)

/-- The frame of the read: a completed `MRC` changes nothing but `x[t]` and the program counter (R57, R72). -/
def Obligations.MrcFrame : Prop :=
  ∀ (s t : State) (i : Instr), isWrite i = false → exec i s = .next t →
    (∀ (n : Nat) (hn : n < 15), n ≠ (rtOf i).toNat → t.x[n] = s.x[n]) ∧
    t.sdcr = s.sdcr ∧ t.stale = s.stale ∧ t.cfg = s.cfg ∧ t.ctx = s.ctx ∧ t.iset = s.iset ∧ t.itCond = s.itCond ∧
    t.draws = s.draws ∧ t.schedule = s.schedule ∧ t.lastAnswer = s.lastAnswer ∧
    ∀ a, memRead t.mem a = memRead s.mem a

/-- The frame of the write: a completed `MCR` changes nothing but SDCR, `Stale`, the program counter and the model's
draw counter (R77, R59); `x[t]` is unchanged; exactly the old value joins `Stale`. -/
def Obligations.McrFrame : Prop :=
  ∀ (s t : State) (i : Instr), isWrite i = true → exec i s = .next t →
    (∀ (n : Nat) (hn : n < 15), t.x[n] = s.x[n]) ∧
    (∀ v, v ∈ t.stale ↔ v = s.sdcr ∨ v ∈ s.stale) ∧
    t.cfg = s.cfg ∧ t.ctx = s.ctx ∧ t.iset = s.iset ∧ t.itCond = s.itCond ∧
    t.schedule = s.schedule ∧ t.lastAnswer = s.lastAnswer ∧
    ∀ a, memRead t.mem a = memRead s.mem a

/-! When an access does not complete. -/

/-- R74: with no refusal and the register present, the privilege check raises at EL0, EL1 and EL2 what its arms say,
the first that applies, and returns at EL3, where a read completes and a write completes unless `CP15SDISABLE2` stops
it. -/
def Obligations.PrivilegeCheckArms : Prop :=
  ∀ (s : State) (i : Instr), s.notRefused i → s.cfg.el3AArch32Capable = true →
    (s.ctx.el = .el0 → exec i s = .fault .undefined) ∧
    (s.ctx.el = .el1 → exec i s = .fault
      (if s.ctx.el2Enabled = true ∧ s.ctx.el2AArch32 = false ∧ s.ctx.hstrEL2T1 = 1#1 then
        .sysAccessTrapA64 .el2 0x03
      else if s.ctx.el2Enabled = true ∧ s.ctx.el2AArch32 = true ∧ s.ctx.hstrT1 = 1#1 then .hypTrap 0x03
      else if s.ctx.el2Enabled = true ∧ s.ctx.el2AArch32 = false ∧ s.ctx.secure = true then
        .sysAccessTrapA64 .el2 0x03
      else if s.ctx.el3AArch32 = false ∧ s.ctx.secure = true then .sysAccessTrapA64 .el3 0x03
      else .undefined)) ∧
    (s.ctx.el = .el2 → exec i s = .fault .undefined) ∧
    (s.ctx.el = .el3 → isWrite i = false ∨ s.ctx.cp15sdisable2 = .low → ∃ t, exec i s = .next t)

/-- R75: at EL1 the ten rows partition the inputs (exactly one row covers any of them), and an access to the present
register ends as its row says. -/
def Obligations.El1TablePartitionsAndDecides : Prop :=
  ∀ (s : State) (i : Instr), s.notRefused i → s.cfg.el3AArch32Capable = true → s.ctx.el = .el1 →
    ∃ r, el1Rows.filter (fun r => r.covers s.ctx) = [r] ∧ exec i s = .fault r.outcome

/-- R73: an access to the absent register is Undefined at every Exception level; where EL1 is under an `HSTR` trap of
EL2 the trap of R74 arm 1 or 2 is admitted beside it. It never completes. -/
def Obligations.AbsentRegisterIsUndefined : Prop :=
  ∀ (s : State) (i : Instr), s.notRefused i → s.cfg.el3AArch32Capable = false →
    exec i s = .fault .undefined ∨
    (s.ctx.el = .el1 ∧ s.ctx.el2Enabled = true ∧ s.ctx.el2AArch32 = false ∧ s.ctx.hstrEL2T1 = 1#1 ∧
      exec i s = .fault (.sysAccessTrapA64 .el2 0x03)) ∨
    (s.ctx.el = .el1 ∧ s.ctx.el2Enabled = true ∧ s.ctx.el2AArch32 = true ∧ s.ctx.hstrT1 = 1#1 ∧
      exec i s = .fault (.hypTrap 0x03))

/-- R78: at EL3, while `CP15SDISABLE2` is high, a write is Undefined; a read completes and reads what it would read
with the signal at either level. -/
def Obligations.Cp15sdisable2StopsWritesOnly : Prop :=
  ∀ (s : State) (i : Instr), s.admitsAccess i → s.ctx.cp15sdisable2 = .high →
    (isWrite i = true → exec i s = .fault .undefined) ∧
    (isWrite i = false →
      ∃ t u, exec i s = .next t ∧
        exec i { s with ctx := { s.ctx with cp15sdisable2 := .low } } = .next u ∧ t.x = u.x ∧ t.sdcr = u.sdcr)

/-- R80, R67: an access is refused exactly when `t` is 13 or 15, its A32 condition is not always or it stands in T32
inside an IT block, or the PE is in Debug state, under the name of the first of these that applies (that order is the
model's, log 16). -/
def Obligations.RefusedExactlyByRefusals : Prop :=
  ∀ s : State,
    (∀ i, (∃ r, exec i s = .refused r) ↔ ¬ s.notRefused i) ∧
    (∀ i, (rtOf i = 13#4 ∨ rtOf i = 15#4) → exec i s = .refused (.rtNotAdmitted (rtOf i))) ∧
    (∀ cond rt, rt ≠ 13#4 → rt ≠ 15#4 → cond ≠ 0b1110#4 →
      exec (.mrcA32 cond rt) s = .refused (.conditionNotAlways cond) ∧
      exec (.mcrA32 cond rt) s = .refused (.conditionNotAlways cond)) ∧
    (∀ cond rt, rt ≠ 13#4 → rt ≠ 15#4 → s.itCond = some cond →
      exec (.mrcT32 rt) s = .refused (.insideItBlock cond) ∧ exec (.mcrT32 rt) s = .refused (.insideItBlock cond)) ∧
    (∀ i, rtOf i ≠ 13#4 → rtOf i ≠ 15#4 → condAdmitted i s = true → s.ctx.debugState = true →
      exec i s = .refused .debugState)

/-! The machine as a whole. -/

/-- R43, R53, R94: a step that changes SDCR is a reset of the present register, or an `MCR` executed at EL3, out of
Debug state, on the present register, with `CP15SDISABLE2` low. No other agent's step writes it. -/
def Obligations.SdcrChangesOnlyByMcrAtEL3OrReset : Prop :=
  ∀ s t : State, step s = .next t → t.sdcr ≠ s.sdcr →
    s.cfg.el3AArch32Capable = true ∧
    (s.nextEvent = .reset ∨
      ∃ i, s.runsInstr i ∧ isWrite i = true ∧ s.ctx.el = .el3 ∧ s.ctx.cp15sdisable2 = .low ∧
        s.ctx.debugState = false)

/-- R93, R94: below EL3, or on an absent register, no access to SDCR completes. -/
def Obligations.AccessCompletesOnlyAtEL3 : Prop :=
  ∀ (s t : State) (i : Instr), exec i s = .next t →
    s.ctx.el = .el3 ∧ s.cfg.el3AArch32Capable = true ∧ (isWrite i = true → s.ctx.cp15sdisable2 = .low)

/-- R7, R48: no step writes the configuration, and only an input change writes the inputs. -/
def Obligations.StepKeepsConfigAndInputs : Prop :=
  ∀ s t : State, step s = .next t →
    t.cfg = s.cfg ∧ ((∀ c, s.nextEvent ≠ .inputs c) → t.ctx = s.ctx) ∧
    (∀ c, s.nextEvent = .inputs c → t.ctx = c ∧ t.sdcr = s.sdcr ∧ t.stale = s.stale)

/-- The invariant (R3, R16, R52, R76; logs 11, 18) is kept by every step of every agent. -/
def Obligations.StepKeepsInv : Prop :=
  ∀ s t : State, s.Inv → step s = .next t → t.Inv

/-- The machine right after reset has the invariant. It rests on the configuration the model names (logs 2 to 5). -/
def Obligations.ResetHasInv : Prop := State.reset.Inv

/-- R47: how an access ends never depends on the value of the register. Two states with the same configuration,
inputs and IT block, at the same draw, end an instruction alike: both complete, or both stop for the same reason. -/
def Obligations.SdcrDoesNotGovernItself : Prop :=
  ∀ (s u : State) (i : Instr), s.cfg = u.cfg → s.ctx = u.ctx → s.itCond = u.itCond → s.draws = u.draws →
    ((∃ t, exec i s = .next t) ↔ ∃ t, exec i u = .next t) ∧
    (∀ f, exec i s = .fault f ↔ exec i u = .fault f) ∧
    (∀ r, exec i s = .refused r ↔ exec i u = .refused r)

/-- R59(a): a read that follows a write in program order, whatever steps of any agent stand between them short of a
reset or another write, returns in `x[t]` what that write stored. -/
def Obligations.ReadReturnsTheLastWrite : Prop :=
  ∀ (k : Nat) (s s1 t u : State) (iw ir : Instr) (hw : (rtOf iw).toNat < 15) (hr : (rtOf ir).toNat < 15),
    s.runsInstr iw → isWrite iw = true → step s = .next s1 →
    runsTo k s1 t → (∀ j, j < k → ∀ v, runsTo j s1 v → ¬ v.mayWriteSdcr) →
    t.runsInstr ir → isWrite ir = false → step t = .next u →
    u.x[(rtOf ir).toNat] = storedValue s.cfg (Config.drawSpdKept s.draws) s.x[(rtOf iw).toNat]

/-- R59(b), R102: along every run, what an indirect read sees was stale at the start or was SDCR at some step of the
run. -/
def Obligations.IndirectReadsSeeOnlyHeldValues : Prop :=
  ∀ (k : Nat) (s t : State) (n : Nat), runsTo k s t →
    t.seen n ∈ s.stale ∨ ∃ j, j ≤ k ∧ ∃ u, runsTo j s u ∧ u.sdcr = t.seen n

/-- R59(b), R102: a step for which `is_context_sync` holds completes and empties `Stale` with SDCR unchanged, so that
every indirect read after it sees SDCR; any other step of the enclosing machine leaves both as they are. -/
def Obligations.ContextSynchronisationEmptiesStale : Prop :=
  ∀ (s : State) (k : StepKind) (e : EnclosingEffect), s.nextEvent = .enclosing k e →
    ∃ t, step s = .next t ∧ t.sdcr = s.sdcr ∧
      (k ∈ s.cfg.contextSyncSteps → t.stale = [] ∧ ∀ n, t.seen n = s.sdcr) ∧
      (k ∉ s.cfg.contextSyncSteps → t.stale = s.stale)

/-- R98: a reset of the present register completes; SDCR takes `Cfg.SDCR_RESET` and `Stale` is empty. -/
def Obligations.ResetSetsSdcrAndEmptiesStale : Prop :=
  ∀ s : State, s.nextEvent = .reset → s.cfg.el3AArch32Capable = true →
    ∃ t, step s = .next t ∧ t.sdcr = s.cfg.sdcrReset ∧ t.stale = []

/-! What the fields do (10_state.md), where they govern the PE: each answer is that of one value an indirect read may
see. -/

/-- R42, D19: the Effective values. `NoControl` where the bit is RES0, whatever else; else 1 (SPD `0b11`) where EL3 is
not implemented and the Effective value of `SCR.NS` is 0, for the five fields that have the clause; else the field of a
value an indirect read may see, where the register is present and EL3 is using AArch32; else `NoMeaning`. That EL3 using
AArch64 gives `NoMeaning` is D19's; R42's formula does not test it (log 22). -/
def Obligations.EffectiveValueOfEachField : Prop :=
  ∀ (s : State) (f : BitField), ∃ v w, s.maySee v ∧ s.maySee w ∧
    (f.isField s.cfg = false → answer s (.effBit f) = .ok (.effBit .noControl)) ∧
    (f.isField s.cfg = true → f ∈ [.epmad, .edad, .ste, .spme] → s.cfg.haveEL3 = false → s.ctx.scrNsEff = 0#1 →
      answer s (.effBit f) = .ok (.effBit (.value 1#1))) ∧
    (f.isField s.cfg = true → (f ∉ [.epmad, .edad, .ste, .spme] ∨ s.cfg.haveEL3 = true ∨ s.ctx.scrNsEff = 1#1) →
      answer s (.effBit f) = .ok (.effBit
        (if s.cfg.el3AArch32Capable = true ∧ s.ctx.el3AArch32 = true then .value (BitVec.ofBool (v.getLsbD f.pos))
         else .noMeaning))) ∧
    (s.cfg.haveEL3 = false → s.ctx.scrNsEff = 0#1 → answer s .effSpd = .ok (.effSpd (.value 0b11#2))) ∧
    ((s.cfg.haveEL3 = true ∨ s.ctx.scrNsEff = 1#1) →
      answer s .effSpd = .ok (.effSpd
        (if s.cfg.el3AArch32Capable = true ∧ s.ctx.el3AArch32 = true then .value (w.extractLsb' 14 2)
         else .noMeaning)))

/-- R18, R19: the MT bit an event counter uses is 0 when MTPME reads 0, or when another PE of the same level 1
Affinity has FEAT_MTPMU disabled and this PE then acts as if MTPME were 0; else it is the stored bit. -/
def Obligations.MtpmeMasksTheMtBit : Prop :=
  ∀ (s : State) (n : Nat), s.fieldsGovern → ∃ v, s.maySee v ∧
    answer s (.pmevtyperMT n) = .ok (.bit
      (if s.cfg.featMTPMU = true ∧
          (v.getLsbD 28 = false ∨ (s.cfg.impdefMtpmeAffinity = true ∧ s.ctx.otherPeMtpmuDisabled = true)) then 0#1
       else if n ∈ s.ctx.pmevtyperMT then 1#1 else 0#1))

/-- R21, R22, R86: TDCC traps an access exactly when FEAT_FGT is implemented, the bit is 1 in the value the indirect
read sees, the PE is not in Monitor mode, the register is in the trapped set, less the exempt registers in Debug
state, and no higher priority exception applies; with the bit 1 in every value an indirect read may see, such an access
generates a Monitor Trap exception. -/
def Obligations.TdccTrapsDccAccesses : Prop :=
  ∀ (s : State) (acc : SysRegAccess), s.fieldsGovern →
    (∃ v, s.maySee v ∧ answer s (.tdccTraps acc) = .ok (.truth
      (s.cfg.featFGT && v.getLsbD 27 && !s.ctx.monitorMode && decide (acc.reg ∈ s.cfg.dccTrappedRegs) &&
        !(s.ctx.debugState && decide (acc.reg ∈ s.cfg.dccDebugExemptRegs)) &&
        !decide (acc ∈ s.ctx.higherPriority)))) ∧
    (s.nextEvent = .guardedAccess acc → s.cfg.featFGT = true → (∀ v, s.maySee v → v.getLsbD 27 = true) →
      s.ctx.monitorMode = false → acc.reg ∈ s.cfg.dccTrappedRegs →
      (s.ctx.debugState = true → acc.reg ∉ s.cfg.dccDebugExemptRegs) → acc ∉ s.ctx.higherPriority →
      step s = .fault (.monitorTrap acc))

/-- R34, R86: TTRF traps an access exactly when FEAT_TRF is implemented, the bit is 1 in the value the indirect read
sees, the PE is not in Monitor mode, the register is HTRFCR or TRFCR, and no higher priority exception applies, in Debug
state too; with the bit 1 in every value an indirect read may see, such an access, a read or a write, generates a
Monitor Trap exception. -/
def Obligations.TtrfTrapsTraceFilterAccesses : Prop :=
  ∀ (s : State) (acc : SysRegAccess), s.fieldsGovern →
    (∃ v, s.maySee v ∧ answer s (.ttrfTraps acc) = .ok (.truth
      (s.cfg.featTRF && v.getLsbD 19 && !s.ctx.monitorMode && decide (acc.reg = .htrfcr ∨ acc.reg = .trfcr) &&
        !decide (acc ∈ s.ctx.higherPriority)))) ∧
    (s.nextEvent = .guardedAccess acc → s.cfg.featTRF = true → (∀ v, s.maySee v → v.getLsbD 19 = true) →
      s.ctx.monitorMode = false → (acc.reg = .htrfcr ∨ acc.reg = .trfcr) → acc ∉ s.ctx.higherPriority →
      step s = .fault (.monitorTrap acc))

/-- R21, R22, R34, R92: where the fields govern, an access that neither TDCC nor TTRF traps on any value an indirect
read may see goes on, whichever of the conjuncts of the two rules fails; and so does, anywhere, an access to a register
that neither field guards (log 25). SDCR raises no Monitor Trap, and registers, SDCR, `Stale` and memory are as before. -/
def Obligations.UntrappedAccessGoesOn : Prop :=
  ∀ (s : State) (acc : SysRegAccess), s.nextEvent = .guardedAccess acc →
    ((s.fieldsGovern ∧ ∀ v, s.maySee v →
        ¬ (s.cfg.featFGT = true ∧ v.getLsbD 27 = true ∧ s.ctx.monitorMode = false ∧ acc.reg ∈ s.cfg.dccTrappedRegs ∧
            ¬ (s.ctx.debugState = true ∧ acc.reg ∈ s.cfg.dccDebugExemptRegs) ∧ acc ∉ s.ctx.higherPriority) ∧
        ¬ (s.cfg.featTRF = true ∧ v.getLsbD 19 = true ∧ s.ctx.monitorMode = false ∧
            (acc.reg = .htrfcr ∨ acc.reg = .trfcr) ∧ acc ∉ s.ctx.higherPriority)) ∨
      (acc.reg ∉ s.cfg.dccTrappedRegs ∧ acc.reg ≠ .htrfcr ∧ acc.reg ≠ .trfcr)) →
    ∃ t, step s = .next t ∧ t.sdcr = s.sdcr ∧ t.stale = s.stale ∧ t.x = s.x ∧ t.pc = s.pc ∧ t.mem = s.mem

/-- R25: PMCCNTR is prohibited from counting by SCCD 1 in Secure state and at EL3; and the event counters' predicate
does not read SCCD. -/
def Obligations.SccdStopsTheCycleCounter : Prop :=
  ∀ s : State, s.fieldsGovern →
    (∃ v, s.maySee v ∧ answer s .pmccntrProhibitedBySccd = .ok (.truth
      (s.cfg.featPMUv3p5 && v.getLsbD 23 && (s.ctx.secure || decide (s.ctx.el = .el3))))) ∧
    ∀ v, eventCountingProhibited s.cfg s.ctx (v ^^^ 0x00800000#32) = eventCountingProhibited s.cfg s.ctx v

/-- R27 to R29: an external debugger's access to a Performance Monitors register is forbidden never where bit 21 is
RES0; in the FEAT_Debugv8p4 description when EPMAD is 1 and the access is Non-secure, override or not; in the other
when EPMAD is 1 and the authentication interface does not override it, Non-secure or not. On a PE without EL3 the
Effective value is 1 (R42). -/
def Obligations.EpmadForbidsDebuggerPmuAccess : Prop :=
  ∀ (s : State) (ns : Bool), s.clauseFieldsGovern → ∃ v, s.maySee v ∧
    answer s (.extPmuForbidden ns) = .ok (.truth
      (s.cfg.featPMUv3 && s.cfg.pmuExtDebugIf && (!s.cfg.haveEL3 || v.getLsbD 21) &&
        (if s.cfg.featDebugv8p4 then ns else !s.ctx.authEpmadOverride)))

/-- R31: with FEAT_Debugv8p4, an external debugger's access to a breakpoint register, a watchpoint register or
OSLAR_EL1 is forbidden when EDAD is 1 and it is Non-secure; with FEAT_Debugv8p2 and not FEAT_Debugv8p4, when EDAD is 1
and the authentication interface does not override it; an access to any other debug register never is. On a PE without
EL3 the Effective value is 1 (R42). -/
def Obligations.EdadForbidsDebuggerAccess : Prop :=
  ∀ (s : State) (cls : DebugClass) (ns : Bool), s.clauseFieldsGovern →
    s.cfg.featDebugv8p4 = true ∨ s.cfg.featDebugv8p2 = true → ∃ v, s.maySee v ∧
    answer s (.extDebugForbidden cls ns) = .ok (.truth
      (decide (cls = .breakpoint ∨ cls = .watchpoint ∨ cls = .oslarEL1) && (!s.cfg.haveEL3 || v.getLsbD 20) &&
        (if s.cfg.featDebugv8p4 then ns else !s.ctx.authEdadOverride)))

/-- R32, D15: without FEAT_Debugv8p4 and FEAT_Debugv8p2, breakpoint and watchpoint registers are forbidden when EDAD is 1
and not overridden; OSLAR_EL1 only when EDAD is 1 and the implementation says so, and then certainly when not
overridden (when overridden either answer may come, the spec's decision D15); other debug registers never. -/
def Obligations.EdadWithoutDebugv8p2LeavesOslarOpen : Prop :=
  ∀ (s : State) (cls : DebugClass) (ns : Bool), s.clauseFieldsGovern →
    s.cfg.featDebugv8p4 = false → s.cfg.featDebugv8p2 = false → ∃ v b, s.maySee v ∧
    answer s (.extDebugForbidden cls ns) = .ok (.truth b) ∧
    (cls = .otherDebug → b = false) ∧
    (cls = .breakpoint ∨ cls = .watchpoint →
      b = ((!s.cfg.haveEL3 || v.getLsbD 20) && !s.ctx.authEdadOverride)) ∧
    (cls = .oslarEL1 → b = true → (!s.cfg.haveEL3 || v.getLsbD 20) = true ∧ s.cfg.impdefEdadBlocksOslar = true) ∧
    (cls = .oslarEL1 → s.ctx.authEdadOverride = false →
      b = ((!s.cfg.haveEL3 || v.getLsbD 20) && s.cfg.impdefEdadBlocksOslar))

/-- R36: trace is prohibited in Secure state when STE is 0, unless the authentication interface overrides it. On a PE
without EL3 the Effective value is 1 (R42). -/
def Obligations.SteProhibitsSecureTrace : Prop :=
  ∀ s : State, s.clauseFieldsGovern → ∃ v, s.maySee v ∧
    answer s .secureTraceProhibited = .ok (.truth
      (s.cfg.featTRF && s.ctx.secure && !(!s.cfg.haveEL3 || v.getLsbD 18) && !s.ctx.authSteOverride))

/-- R38, R39: in Secure state SPME 0 prohibits event counting, and with `PMCR.DP` 1 disables PMCCNTR; without
FEAT_Debugv8p2 only while ExternalSecureNoninvasiveDebugEnabled() is FALSE. On a PE without EL3 the Effective value is
1 (R42). -/
def Obligations.SpmeProhibitsSecureCounting : Prop :=
  ∀ s : State, s.clauseFieldsGovern →
    (∃ v, s.maySee v ∧ answer s .eventCountingProhibited = .ok (.truth
      (s.cfg.featPMUv3 && s.ctx.secure && !(!s.cfg.haveEL3 || v.getLsbD 17) &&
        (s.cfg.featDebugv8p2 || !s.ctx.extSecNoninvasiveDbgEn)))) ∧
    (∃ v, s.maySee v ∧ answer s .pmccntrDisabledBySpme = .ok (.truth
      (s.cfg.featPMUv3 && s.ctx.secure && !(!s.cfg.haveEL3 || v.getLsbD 17) &&
        (s.cfg.featDebugv8p2 || !s.ctx.extSecNoninvasiveDbgEn) && decide (s.ctx.pmcrDP = 1#1))))

/-- R95: PMCCNTR does not count while SCCD prohibits it or SPME disables it, each by a value of its own that an
indirect read may see. -/
def Obligations.CycleCounterStopsByEitherField : Prop :=
  ∀ s : State, s.fieldsGovern → ∃ v w, s.maySee v ∧ s.maySee w ∧
    answer s .pmccntrStopped = .ok (.truth
      (pmccntrProhibitedBySccd s.cfg s.ctx v || pmccntrDisabledBySpme s.cfg s.ctx w))

/-- R40: in Secure state debug exceptions from EL3 are enabled by the authentication interface for SPD `0b00`, disabled
for `0b10`, enabled for `0b11`, and the reserved `0b01` has the behaviour of `0b00`. On a PE without EL3 the Effective
value is `0b11` (R42). -/
def Obligations.SpdControlsEl3DebugExceptions : Prop :=
  ∀ s : State, s.clauseFieldsGovern → s.ctx.secure = true → ∃ v b, s.maySee v ∧
    answer s .el3DebugExceptionsEnabled = .ok (.truth b) ∧
    (s.cfg.haveEL3 = true → v.extractLsb' 14 2 = 0b00#2 ∨ v.extractLsb' 14 2 = 0b01#2 →
      b = s.ctx.authEl3DebugEnable) ∧
    (s.cfg.haveEL3 = true → v.extractLsb' 14 2 = 0b10#2 → b = false) ∧
    (s.cfg.haveEL3 = true → v.extractLsb' 14 2 = 0b11#2 → b = true) ∧
    (s.cfg.haveEL3 = false → b = true)

/-- R41, D14: debug exceptions from Secure EL0 are enabled when those from EL3 are (SPD `0b11`, or SPD `0b00` or `0b01`
with the authentication interface enabling them, or a PE without EL3), and otherwise exactly when `SDER.SUIDEN` is 1
(that 1 is sufficient is the spec's reading D14, log 26); in Non-secure state SPD decides nothing and the two predicates
are refused (the model's form, log 23); Breakpoint Instruction exceptions are always enabled. -/
def Obligations.SecureEL0FollowsEl3OrSuiden : Prop :=
  ∀ s : State, s.clauseFieldsGovern →
    answer s .breakpointInstructionExceptionsEnabled = .ok (.truth true) ∧
    (s.ctx.secure = false →
      answer s .el3DebugExceptionsEnabled = .error .spdIgnoredInNonsecure ∧
      answer s .secureEL0DebugExceptionsEnabled = .error .spdIgnoredInNonsecure) ∧
    (s.ctx.secure = true → ∃ v, s.maySee v ∧
      answer s .secureEL0DebugExceptionsEnabled = .ok (.truth
        (!s.cfg.haveEL3 || decide (v.extractLsb' 14 2 = 0b11#2) ||
          (decide (v.extractLsb' 14 2 ≠ 0b10#2) && s.ctx.authEl3DebugEnable) ||
          decide (s.ctx.sderSUIDEN = 1#1))))

/-- R46: where the register is absent or EL3 is not using AArch32, a predicate of MTPME, TDCC, SCCD or TTRF is refused
always, and any other predicate unless EL3 is not implemented and the Effective value of `SCR.NS` is 0. Inside its domain
every predicate has an answer, but for SPD's two in Non-secure state, which are refused under a name of their own (log
23). That the refusals reach the Breakpoint Instruction predicate, and R95's OR as one of SCCD's, is the model's (log 22,
log 28). -/
def Obligations.PredicatesMeanNothingOutsideTheirDomain : Prop :=
  ∀ (s : State) (q : Query), (∀ f, q ≠ .effBit f) → q ≠ .effSpd →
    ((s.cfg.el3AArch32Capable = false ∨ s.ctx.el3AArch32 = false) →
      (q.readsNoClauseField = true ∨ s.cfg.haveEL3 = true ∨ s.ctx.scrNsEff = 1#1) → answer s q = .error .noMeaning) ∧
    ((s.fieldsGovern ∨ (s.clauseFieldsGovern ∧ q.readsNoClauseField = false)) →
      if (q = .el3DebugExceptionsEnabled ∨ q = .secureEL0DebugExceptionsEnabled) ∧ s.ctx.secure = false then
        answer s q = .error .spdIgnoredInNonsecure
      else ∃ a, answer s q = .ok a)

/-- R16(a): a RES0 bit has no effect. Two values that agree outside the RES0 bits give the same answer to every query
when nothing is stale. -/
def Obligations.Res0BitsHaveNoEffect : Prop :=
  ∀ (s : State) (v w : Word) (q : Query), v &&& ~~~(res0Mask s.cfg) = w &&& ~~~(res0Mask s.cfg) →
    answer { s with sdcr := v, stale := [] } q = answer { s with sdcr := w, stale := [] } q

/-- R40: the reserved SPD value `0b01` behaves like `0b00`. Two values that differ only so give the same answer to
every query but the Effective value of SPD itself, when nothing is stale. -/
def Obligations.ReservedSpdActsAsLegacy : Prop :=
  ∀ (s : State) (v : Word) (q : Query), q ≠ .effSpd → spdBits v = 0b01#2 →
    answer { s with sdcr := v, stale := [] } q = answer { s with sdcr := v &&& 0xFFFF3FFF#32, stale := [] } q

/-- D21, R46: a query is a step that records its answer and changes nothing else but the draw counter, or is refused
as the answer is. That queries are steps of the run is the model's own form (log 22). -/
def Obligations.QueryRecordsItsAnswer : Prop :=
  ∀ (s : State) (q : Query) (es : List Event), s.schedule = .query q :: es →
    (∀ a, answer s q = .ok a →
      step s = .next { s with schedule := es, lastAnswer := some a, draws := s.draws + 2 }) ∧
    (∀ r, answer s q = .error r → step s = .refused r)

/-- R14, R16: which bits are RES0. Bit by bit, a bit is RES0 exactly when the layout's table names no field there on
this chip. -/
def Obligations.Res0MaskFollowsTheLayout : Prop :=
  ∀ (c : Config) (n : Nat), n < 32 →
    (res0Mask c).getLsbD n =
      !((n == 28 && c.featMTPMU) || (n == 27 && c.featFGT) || (n == 23 && c.featPMUv3p5) ||
        (n == 21 && c.featPMUv3 && c.pmuExtDebugIf) || n == 20 || (n == 19 && c.featTRF) || (n == 18 && c.featTRF) ||
        (n == 17 && c.featPMUv3) || n == 15 || n == 14)

/-- 95_test_vectors.md section 5, from R79: storing what a store left is a value that store may leave, and where SPD
was not `0b01` a second store changes nothing. -/
def Obligations.StoredValueIsIdempotent : Prop :=
  ∀ (c : Config) (j k : Bool) (v : Word),
    (∃ l, storedValue c k (storedValue c j v) = storedValue c l v) ∧
    (spdBits v ≠ 0b01#2 → storedValue c k (storedValue c j v) = storedValue c j v)

/-! Encodings (30_encoding.md). -/

/-- Decode and encode agree: the bytes of a well-formed instruction, with anything after them, decode in its
instruction set to that instruction and leave what follows: every condition and every `t`. -/
def Obligations.DecodeOfEncode : Prop :=
  ∀ (i : Instr) (rest : List Byte), i.wellFormed = true → decode i.iset (encode i ++ rest) = .ok (i, rest)

/-- Encode and decode agree the other way: bytes that decode at all are the encoding of the instruction they decode
to, which is well-formed and of that instruction set, followed by what was left. No two byte sequences share a
meaning and no bit is ignored. -/
def Obligations.EncodeOfDecode : Prop :=
  ∀ (iset : ISet) (bytes rest : List Byte) (i : Instr), decode iset bytes = .ok (i, rest) →
    i.wellFormed = true ∧ i.iset = iset ∧ bytes = encode i ++ rest

/-- R68: a 32-bit number is an access exactly when `w & mask == match` for its row, and in A32 `cond` is not `0b1111`;
its fields are `cond`, bits 31:28, and `t`, bits 15:12. -/
def Obligations.MaskAndMatchSelect : Prop :=
  ∀ (w : Word) (cond rt : Nibble),
    (decodeWord .a32 w = .ok (.mrcA32 cond rt) ↔
      w &&& 0x0FFF0FFF#32 = 0x0E110F33#32 ∧ w.extractLsb' 28 4 = cond ∧ cond ≠ 0b1111#4 ∧ w.extractLsb' 12 4 = rt) ∧
    (decodeWord .a32 w = .ok (.mcrA32 cond rt) ↔
      w &&& 0x0FFF0FFF#32 = 0x0E010F33#32 ∧ w.extractLsb' 28 4 = cond ∧ cond ≠ 0b1111#4 ∧ w.extractLsb' 12 4 = rt) ∧
    (decodeWord .t32 w = .ok (.mrcT32 rt) ↔ w &&& 0xFFFF0FFF#32 = 0xEE110F33#32 ∧ w.extractLsb' 12 4 = rt) ∧
    (decodeWord .t32 w = .ok (.mcrT32 rt) ↔ w &&& 0xFFFF0FFF#32 = 0xEE010F33#32 ∧ w.extractLsb' 12 4 = rt)

/-- Words of 95_test_vectors.md section 2 decode to what the section says. A sanity statement. -/
def Obligations.SpecWordsDecode : Prop :=
  decodeWord .a32 0xEE110F33#32 = .ok (.mrcA32 0b1110#4 0#4) ∧
  decodeWord .a32 0xEE015F33#32 = .ok (.mcrA32 0b1110#4 5#4) ∧
  decodeWord .a32 0x0E110F33#32 = .ok (.mrcA32 0b0000#4 0#4) ∧
  decodeWord .a32 0xFE110F33#32 = .error .condNotACondition ∧
  decodeWord .t32 0xEE110F33#32 = .ok (.mrcT32 0#4) ∧
  decodeWord .t32 0xEE012F33#32 = .ok (.mcrT32 2#4)

/-- R62, R63, R65, D6: an assembler line with always, written or omitted, that names SDCR stands in either instruction
set for the access with its direction and register; whatever line stands for an instruction stands for a well-formed
one of that set; with any other `<c>` no line stands for an instruction that a state executes; a line that names another
tuple, as one without `<opc2>` does, stands for none. That T32 refuses the line and A32 the instruction is the model's
(log 33), as is that `.N` is no error (log 32). -/
def Obligations.AssemblerLinesRunOnlyUnconditionally : Prop :=
  ∀ (iset : ISet) (l : AsmLine),
    (l.tuple = sdcrTuple → l.condition = 0b1110#4 →
      ∃ i, l.instr iset = .ok i ∧ isWrite i = !l.isRead ∧ rtOf i = l.rt ∧
        ∀ s : State, s.itCond = none → condAdmitted i s = true) ∧
    (∀ i, l.instr iset = .ok i → i.wellFormed = true ∧ i.iset = iset) ∧
    (∀ i s, l.condition ≠ 0b1110#4 → l.instr iset = .ok i → ∃ r, exec i s = .refused r) ∧
    (l.opc2 = none → l.tuple ≠ sdcrTuple) ∧
    (l.tuple ≠ sdcrTuple → l.instr iset = .error (.otherTuple l.tuple))

/-- A step runs the decoded instruction: when it is the PE's turn and the four bytes at the program counter decode to
a well-formed instruction, the step is that instruction's execution on the state with its turn taken off the
schedule. -/
def Obligations.StepRunsTheDecodedInstruction : Prop :=
  ∀ (s : State) (i : Instr) (b0 b1 b2 b3 : Byte), s.nextEvent = .instruction →
    memRead s.mem s.pc.toNat = some b0 → memRead s.mem (s.pc + 1#32).toNat = some b1 →
    memRead s.mem (s.pc + 2#32).toNat = some b2 → memRead s.mem (s.pc + 3#32).toNat = some b3 →
    i.wellFormed = true → decode s.iset [b0, b1, b2, b3] = .ok (i, []) →
    step s = exec i { s with schedule := s.schedule.tail }

/-- Memory holds what is placed in it: the encoding of an instruction written at the program counter, wherever that is
and wrapping at the top of the address space, is what the next step runs, in the instruction set it belongs to. -/
def Obligations.PlacedInstructionRuns : Prop :=
  ∀ (s : State) (i : Instr), i.wellFormed = true → s.nextEvent = .instruction → s.iset = i.iset →
    step { s with mem := memWriteBytes s.mem s.pc (encode i) } =
      exec i { s with mem := memWriteBytes s.mem s.pc (encode i), schedule := s.schedule.tail }

/-- R68, R70(d), R71: whatever stands at the program counter but an access to SDCR does not run. Four bytes whose number
no row's mask and match select, or in A32 one with `cond` `0b1111` (E10), are refused; so is a T32 halfword that begins no
4-byte instruction, alone or not. Where memory holds less than a whole instruction the machine stops. How a run ends
where the enclosing machine issues no instruction, and the byte order, are the model's (log 11, log 12, log 16). -/
def Obligations.NoOtherInstructionRuns : Prop :=
  ∀ s : State, s.nextEvent = .instruction →
    (memRead s.mem s.pc.toNat = none → step s = .fault (.noInstruction s.pc)) ∧
    (∀ b0, memRead s.mem s.pc.toNat = some b0 → memRead s.mem (s.pc + 1#32).toNat = none →
      step s = .fault (.noInstruction s.pc)) ∧
    (∀ b0 b1, memRead s.mem s.pc.toNat = some b0 → memRead s.mem (s.pc + 1#32).toNat = some b1 →
      (memRead s.mem (s.pc + 2#32).toNat = none ∨ memRead s.mem (s.pc + 3#32).toNat = none) →
      step s =
        if s.iset = .t32 ∧ b1.extractLsb' 3 5 ∉ [0b11101#5, 0b11110#5, 0b11111#5] then .refused .notAnSdcrAccess
        else .fault (.noInstruction s.pc)) ∧
    (∀ b0 b1 b2 b3, memRead s.mem s.pc.toNat = some b0 → memRead s.mem (s.pc + 1#32).toNat = some b1 →
      memRead s.mem (s.pc + 2#32).toNat = some b2 → memRead s.mem (s.pc + 3#32).toNat = some b3 →
      (match s.iset with
        | .a32 => (bytesWord .a32 b0 b1 b2 b3).extractLsb' 28 4 = 0b1111#4 ∨
            (bytesWord .a32 b0 b1 b2 b3 &&& 0x0FFF0FFF#32 ≠ 0x0E110F33#32 ∧
              bytesWord .a32 b0 b1 b2 b3 &&& 0x0FFF0FFF#32 ≠ 0x0E010F33#32)
        | .t32 => bytesWord .t32 b0 b1 b2 b3 &&& 0xFFFF0FFF#32 ≠ 0xEE110F33#32 ∧
            bytesWord .t32 b0 b1 b2 b3 &&& 0xFFFF0FFF#32 ≠ 0xEE010F33#32) →
      step s = .refused .notAnSdcrAccess)
end

