-- ==== Sys2Proof/Laws/State.lean ====
section
/-!
SUPPORT. The small lemmas of the record updates, one per field, so that no later proof unfolds an update.
-/
namespace Sys2Proof.Machine

@[simp] theorem advancePc_cfg (s : State) : (s.advancePc).cfg = s.cfg := rfl
@[simp] theorem advancePc_ctx (s : State) : (s.advancePc).ctx = s.ctx := rfl
@[simp] theorem advancePc_sdcr (s : State) : (s.advancePc).sdcr = s.sdcr := rfl
@[simp] theorem advancePc_stale (s : State) : (s.advancePc).stale = s.stale := rfl
@[simp] theorem advancePc_x (s : State) : (s.advancePc).x = s.x := rfl
@[simp] theorem advancePc_pc (s : State) : (s.advancePc).pc = s.pc + 4#32 := rfl
@[simp] theorem advancePc_iset (s : State) : (s.advancePc).iset = s.iset := rfl
@[simp] theorem advancePc_itCond (s : State) : (s.advancePc).itCond = s.itCond := rfl
@[simp] theorem advancePc_mem (s : State) : (s.advancePc).mem = s.mem := rfl
@[simp] theorem advancePc_draws (s : State) : (s.advancePc).draws = s.draws := rfl
@[simp] theorem advancePc_schedule (s : State) : (s.advancePc).schedule = s.schedule := rfl
@[simp] theorem advancePc_lastAnswer (s : State) : (s.advancePc).lastAnswer = s.lastAnswer := rfl

@[simp] theorem storeSdcr_cfg (s : State) (v : Word) : (s.storeSdcr v).cfg = s.cfg := rfl
@[simp] theorem storeSdcr_ctx (s : State) (v : Word) : (s.storeSdcr v).ctx = s.ctx := rfl
@[simp] theorem storeSdcr_sdcr (s : State) (v : Word) : (s.storeSdcr v).sdcr = v := rfl
@[simp] theorem storeSdcr_stale (s : State) (v : Word) : (s.storeSdcr v).stale = staleInsert s.sdcr s.stale := rfl
@[simp] theorem storeSdcr_x (s : State) (v : Word) : (s.storeSdcr v).x = s.x := rfl
@[simp] theorem storeSdcr_pc (s : State) (v : Word) : (s.storeSdcr v).pc = s.pc := rfl
@[simp] theorem storeSdcr_iset (s : State) (v : Word) : (s.storeSdcr v).iset = s.iset := rfl
@[simp] theorem storeSdcr_itCond (s : State) (v : Word) : (s.storeSdcr v).itCond = s.itCond := rfl
@[simp] theorem storeSdcr_mem (s : State) (v : Word) : (s.storeSdcr v).mem = s.mem := rfl
@[simp] theorem storeSdcr_draws (s : State) (v : Word) : (s.storeSdcr v).draws = s.draws + 1 := rfl
@[simp] theorem storeSdcr_schedule (s : State) (v : Word) : (s.storeSdcr v).schedule = s.schedule := rfl
@[simp] theorem storeSdcr_lastAnswer (s : State) (v : Word) : (s.storeSdcr v).lastAnswer = s.lastAnswer := rfl

@[simp] theorem synchronise_cfg (s : State) : (s.synchronise).cfg = s.cfg := rfl
@[simp] theorem synchronise_ctx (s : State) : (s.synchronise).ctx = s.ctx := rfl
@[simp] theorem synchronise_sdcr (s : State) : (s.synchronise).sdcr = s.sdcr := rfl
@[simp] theorem synchronise_stale (s : State) : (s.synchronise).stale = [] := rfl
@[simp] theorem synchronise_x (s : State) : (s.synchronise).x = s.x := rfl
@[simp] theorem synchronise_pc (s : State) : (s.synchronise).pc = s.pc := rfl
@[simp] theorem synchronise_iset (s : State) : (s.synchronise).iset = s.iset := rfl
@[simp] theorem synchronise_itCond (s : State) : (s.synchronise).itCond = s.itCond := rfl
@[simp] theorem synchronise_mem (s : State) : (s.synchronise).mem = s.mem := rfl
@[simp] theorem synchronise_draws (s : State) : (s.synchronise).draws = s.draws := rfl
@[simp] theorem synchronise_schedule (s : State) : (s.synchronise).schedule = s.schedule := rfl
@[simp] theorem synchronise_lastAnswer (s : State) : (s.synchronise).lastAnswer = s.lastAnswer := rfl

@[simp] theorem applyEnclosing_cfg (s : State) (e : EnclosingEffect) : (s.applyEnclosing e).cfg = s.cfg := rfl
@[simp] theorem applyEnclosing_ctx (s : State) (e : EnclosingEffect) : (s.applyEnclosing e).ctx = s.ctx := rfl
@[simp] theorem applyEnclosing_sdcr (s : State) (e : EnclosingEffect) : (s.applyEnclosing e).sdcr = s.sdcr := rfl
@[simp] theorem applyEnclosing_stale (s : State) (e : EnclosingEffect) : (s.applyEnclosing e).stale = s.stale := rfl
@[simp] theorem applyEnclosing_x (s : State) (e : EnclosingEffect) : (s.applyEnclosing e).x = e.x := rfl
@[simp] theorem applyEnclosing_pc (s : State) (e : EnclosingEffect) : (s.applyEnclosing e).pc = e.pc := rfl
@[simp] theorem applyEnclosing_iset (s : State) (e : EnclosingEffect) : (s.applyEnclosing e).iset = e.iset := rfl
@[simp] theorem applyEnclosing_itCond (s : State) (e : EnclosingEffect) : (s.applyEnclosing e).itCond = e.itCond := rfl
@[simp] theorem applyEnclosing_mem (s : State) (e : EnclosingEffect) : (s.applyEnclosing e).mem = memStores s.mem e.stores := rfl
@[simp] theorem applyEnclosing_draws (s : State) (e : EnclosingEffect) : (s.applyEnclosing e).draws = s.draws := rfl
@[simp] theorem applyEnclosing_schedule (s : State) (e : EnclosingEffect) : (s.applyEnclosing e).schedule = s.schedule := rfl
@[simp] theorem applyEnclosing_lastAnswer (s : State) (e : EnclosingEffect) : (s.applyEnclosing e).lastAnswer = s.lastAnswer := rfl

@[simp] theorem popEvent_cfg (s : State) : (s.popEvent).cfg = s.cfg := rfl
@[simp] theorem popEvent_ctx (s : State) : (s.popEvent).ctx = s.ctx := rfl
@[simp] theorem popEvent_sdcr (s : State) : (s.popEvent).sdcr = s.sdcr := rfl
@[simp] theorem popEvent_stale (s : State) : (s.popEvent).stale = s.stale := rfl
@[simp] theorem popEvent_x (s : State) : (s.popEvent).x = s.x := rfl
@[simp] theorem popEvent_pc (s : State) : (s.popEvent).pc = s.pc := rfl
@[simp] theorem popEvent_iset (s : State) : (s.popEvent).iset = s.iset := rfl
@[simp] theorem popEvent_itCond (s : State) : (s.popEvent).itCond = s.itCond := rfl
@[simp] theorem popEvent_mem (s : State) : (s.popEvent).mem = s.mem := rfl
@[simp] theorem popEvent_draws (s : State) : (s.popEvent).draws = s.draws := rfl
@[simp] theorem popEvent_schedule (s : State) : (s.popEvent).schedule = s.schedule.tail := rfl
@[simp] theorem popEvent_lastAnswer (s : State) : (s.popEvent).lastAnswer = s.lastAnswer := rfl

@[simp] theorem writeX_cfg (s : State) (rt : Nibble) (v : Word) : (s.writeX rt v).cfg = s.cfg := by
  unfold State.writeX; split <;> rfl
@[simp] theorem writeX_ctx (s : State) (rt : Nibble) (v : Word) : (s.writeX rt v).ctx = s.ctx := by
  unfold State.writeX; split <;> rfl
@[simp] theorem writeX_sdcr (s : State) (rt : Nibble) (v : Word) : (s.writeX rt v).sdcr = s.sdcr := by
  unfold State.writeX; split <;> rfl
@[simp] theorem writeX_stale (s : State) (rt : Nibble) (v : Word) : (s.writeX rt v).stale = s.stale := by
  unfold State.writeX; split <;> rfl
@[simp] theorem writeX_iset (s : State) (rt : Nibble) (v : Word) : (s.writeX rt v).iset = s.iset := by
  unfold State.writeX; split <;> rfl
@[simp] theorem writeX_itCond (s : State) (rt : Nibble) (v : Word) : (s.writeX rt v).itCond = s.itCond := by
  unfold State.writeX; split <;> rfl
@[simp] theorem writeX_mem (s : State) (rt : Nibble) (v : Word) : (s.writeX rt v).mem = s.mem := by
  unfold State.writeX; split <;> rfl
@[simp] theorem writeX_draws (s : State) (rt : Nibble) (v : Word) : (s.writeX rt v).draws = s.draws := by
  unfold State.writeX; split <;> rfl
@[simp] theorem writeX_schedule (s : State) (rt : Nibble) (v : Word) : (s.writeX rt v).schedule = s.schedule := by
  unfold State.writeX; split <;> rfl
@[simp] theorem writeX_lastAnswer (s : State) (rt : Nibble) (v : Word) : (s.writeX rt v).lastAnswer = s.lastAnswer := by
  unfold State.writeX; split <;> rfl

/-- The write of an admitted register, on the whole state. -/
theorem writeX_of_lt (s : State) {rt : Nibble} (v : Word) (h : rt.toNat < 15) :
    s.writeX rt v = { s with x := s.x.set rt.toNat v } := by
  simp [State.writeX, h]

/-- The read of an admitted register. -/
theorem readX_of_lt (s : State) {rt : Nibble} (h : rt.toNat < 15) : s.readX rt = s.x[rt.toNat] := by
  simp [State.readX, h]

@[simp] theorem applyReset_cfg (s : State) :
    s.applyReset.cfg = s.cfg := by
  unfold State.applyReset; split <;> rfl
@[simp] theorem applyReset_ctx (s : State) :
    s.applyReset.ctx = s.ctx := by
  unfold State.applyReset; split <;> rfl
@[simp] theorem applyReset_sdcr (s : State) :
    s.applyReset.sdcr = if present s.cfg then s.cfg.sdcrReset else s.sdcr := by
  unfold State.applyReset; split <;> rfl
@[simp] theorem applyReset_stale (s : State) :
    s.applyReset.stale = if present s.cfg then [] else s.stale := by
  unfold State.applyReset; split <;> rfl
@[simp] theorem applyReset_x (s : State) :
    s.applyReset.x = s.x := by
  unfold State.applyReset; split <;> rfl
@[simp] theorem applyReset_pc (s : State) :
    s.applyReset.pc = s.pc := by
  unfold State.applyReset; split <;> rfl
@[simp] theorem applyReset_iset (s : State) :
    s.applyReset.iset = s.iset := by
  unfold State.applyReset; split <;> rfl
@[simp] theorem applyReset_itCond (s : State) :
    s.applyReset.itCond = s.itCond := by
  unfold State.applyReset; split <;> rfl
@[simp] theorem applyReset_mem (s : State) :
    s.applyReset.mem = s.mem := by
  unfold State.applyReset; split <;> rfl
@[simp] theorem applyReset_draws (s : State) :
    s.applyReset.draws = s.draws := by
  unfold State.applyReset; split <;> rfl
@[simp] theorem applyReset_schedule (s : State) :
    s.applyReset.schedule = s.schedule := by
  unfold State.applyReset; split <;> rfl
@[simp] theorem applyReset_lastAnswer (s : State) :
    s.applyReset.lastAnswer = s.lastAnswer := by
  unfold State.applyReset; split <;> rfl

end Sys2Proof.Machine
end

