-- ==== Sys2Proof/Laws/Ops.lean ====
section
/-!
SUPPORT. What each shared operation can do, said once: the memory and `Stale` keep their canonical forms, the checks
pass exactly under the conditions of R73, R74 and R80, an access that completes does what R72 or R77 says.
-/
namespace Sys2Proof.Machine

/-! The instruction memory. -/

theorem memWfFrom_mono {lo lo' : Nat} {m : List Host.Cell} (h : memWfFrom lo m = true) (hl : lo' ≤ lo) :
    memWfFrom lo' m = true := by
  cases m with
  | nil => rfl
  | cons c rest =>
    obtain ⟨b, w⟩ := c
    simp only [memWfFrom, Bool.and_eq_true, decide_eq_true_eq] at h ⊢
    exact ⟨⟨by omega, h.1.2⟩, h.2⟩

theorem memWfFrom_write {lo a : Nat} {m : List Host.Cell} {v : Byte} (h : memWfFrom lo m = true) (hl : lo ≤ a)
    (ha : a < 2 ^ 32) : memWfFrom lo (memWrite m a v) = true := by
  induction m generalizing lo with
  | nil =>
    simp only [memWrite, memWfFrom, Bool.and_eq_true, decide_eq_true_eq]
    exact ⟨⟨hl, ha⟩, trivial⟩
  | cons c rest ih =>
    obtain ⟨b, w⟩ := c
    simp only [memWfFrom, Bool.and_eq_true, decide_eq_true_eq] at h
    unfold memWrite
    split
    · rename_i hlt
      simp only [memWfFrom, Bool.and_eq_true, decide_eq_true_eq]
      exact ⟨⟨hl, ha⟩, ⟨by omega, h.1.2⟩, h.2⟩
    · split
      · rename_i _ heq
        subst heq
        simp only [memWfFrom, Bool.and_eq_true, decide_eq_true_eq]
        exact h
      · rename_i hnl hne
        simp only [memWfFrom, Bool.and_eq_true, decide_eq_true_eq]
        exact ⟨h.1, ih h.2 (by omega)⟩

/-- Writing one byte keeps the canonical form. -/
theorem memWrite_wf {m : List Host.Cell} (h : memWf m = true) (a : Word) (v : Byte) :
    memWf (memWrite m a.toNat v) = true :=
  memWfFrom_write h (Nat.zero_le _) a.isLt

/-- Writing a run of bytes keeps the canonical form. -/
theorem memWriteBytes_wf {m : List Host.Cell} (h : memWf m = true) (a : Word) (bytes : List Byte) :
    memWf (memWriteBytes m a bytes) = true := by
  induction bytes generalizing m a with
  | nil => exact h
  | cons v rest ih => exact ih (memWrite_wf h a v) (a + 1#32)

/-- A list of stores keeps the canonical form. -/
theorem memStores_wf {m : List Host.Cell} (h : memWf m = true) (stores : List (Word × Byte)) :
    memWf (memStores m stores) = true := by
  induction stores generalizing m with
  | nil => exact h
  | cons c rest ih => exact ih (memWrite_wf h c.1 c.2)

/-- The memory right after reset has the canonical form. -/
theorem reset_mem_wf : memWf State.reset.mem = true := rfl

/-- A byte just written is read back. -/
theorem memRead_memWrite_self (m : List Host.Cell) (a : Nat) (v : Byte) : memRead (memWrite m a v) a = some v := by
  induction m with
  | nil => simp [memWrite, memRead]
  | cons c rest ih =>
    obtain ⟨b, w⟩ := c
    unfold memWrite
    split
    · simp [memRead]
    · split
      · simp [memRead]
      · rename_i hne
        simp [memRead, hne, ih]

/-- A write leaves every other address alone. -/
theorem memRead_memWrite_of_ne (m : List Host.Cell) {a b : Nat} (v : Byte) (h : b ≠ a) :
    memRead (memWrite m a v) b = memRead m b := by
  induction m with
  | nil => simp [memWrite, memRead, h]
  | cons c rest ih =>
    obtain ⟨d, w⟩ := c
    unfold memWrite
    split
    · simp [memRead, h]
    · split
      · rename_i _ heq
        simp [memRead, h, ← heq]
      · simp [memRead, ih]

/-! The set `Stale`. -/

/-- The elements of `{v} ∪ Stale`. -/
theorem mem_staleInsert {u v : Word} {l : List Word} : u ∈ staleInsert v l ↔ u = v ∨ u ∈ l := by
  induction l with
  | nil => simp [staleInsert]
  | cons w rest ih =>
    unfold staleInsert
    split
    · simp
    · split
      · rename_i _ heq
        subst heq
        simp
      · simp only [List.mem_cons, ih]
        tauto

theorem staleWfFrom_insert {lo : Nat} {v : Word} {l : List Word} (h : staleWfFrom lo l = true) (hv : lo ≤ v.toNat) :
    staleWfFrom lo (staleInsert v l) = true := by
  induction l generalizing lo with
  | nil => simp [staleInsert, staleWfFrom, hv]
  | cons w rest ih =>
    simp only [staleWfFrom, Bool.and_eq_true, decide_eq_true_eq] at h
    unfold staleInsert
    split
    · rename_i hlt
      simp only [staleWfFrom, Bool.and_eq_true, decide_eq_true_eq]
      exact ⟨hv, by omega, h.2⟩
    · split
      · simp only [staleWfFrom, Bool.and_eq_true, decide_eq_true_eq]
        exact h
      · rename_i hnl hne
        simp only [staleWfFrom, Bool.and_eq_true, decide_eq_true_eq]
        exact ⟨h.1, ih h.2 (by
          have : v.toNat ≠ w.toNat := fun e => hne (BitVec.eq_of_toNat_eq e)
          omega)⟩

/-- Adding a value keeps the canonical form of `Stale`. -/
theorem staleInsert_wf {v : Word} {l : List Word} (h : staleWf l = true) : staleWf (staleInsert v l) = true :=
  staleWfFrom_insert h (Nat.zero_le _)

/-- A draw from `{v} ∪ l` is one of its elements. -/
theorem pick_mem (v : Word) (l : List Word) (k : Nat) : pick v l k ∈ v :: l := by
  unfold pick
  split
  · simp
  · rename_i w rest
    have hk : k % (rest.length + 2) < (v :: w :: rest).length := by
      exact Nat.mod_lt k (Nat.succ_pos _)
    rw [List.getD_eq_getElem _ _ hk]
    exact List.getElem_mem hk

/-- Where nothing is stale an indirect read sees SDCR. -/
theorem pick_nil (v : Word) (k : Nat) : pick v [] k = v := rfl

/-! The checks of an access. -/

/-- A register number other than 13 and 15 is admitted, and is below 15. -/
theorem rtAdmitted_iff (rt : Nibble) : rtAdmitted rt = true ↔ rt ≠ 13#4 ∧ rt ≠ 15#4 := by
  simp [rtAdmitted]

theorem rt_lt_of_admitted {rt : Nibble} (h : rtAdmitted rt = true) : rt.toNat < 15 := by
  have h15 := ((rtAdmitted_iff rt).1 h).2
  have : rt.toNat ≠ 15 := fun e => h15 (BitVec.eq_of_toNat_eq e)
  have := rt.isLt
  omega

/-- `Refusals(t)` passes exactly under R80's conditions. -/
theorem refusals_none_iff (s : State) (cr : Option Refusal) (rt : Nibble) :
    refusals s cr rt = none ↔ rtAdmitted rt = true ∧ cr = none ∧ s.ctx.debugState = false := by
  unfold refusals
  split
  · simp_all
  · cases cr <;> simp_all

/-- The A32 condition that is admitted (R65). -/
theorem a32CondRefusal_none_iff (cond : Nibble) : a32CondRefusal cond = none ↔ cond = 0b1110#4 := by
  unfold a32CondRefusal condAlways
  split <;> simp_all

/-- T32 is admitted outside an IT block only (R67, D6). -/
theorem t32CondRefusal_none_iff (s : State) : t32CondRefusal s = none ↔ s.itCond = none := by
  unfold t32CondRefusal
  split <;> simp_all

/-- The presence check passes exactly where the register is present. -/
theorem presenceCheck_none_iff (s : State) : presenceCheck s = none ↔ present s.cfg = true := by
  unfold presenceCheck
  split
  · simp_all
  · split <;> simp_all

/-- The privilege check passes exactly at EL3. -/
theorem accessCheck_none_iff (c : Ctx) : accessCheck c = none ↔ c.el = .el3 := by
  unfold accessCheck
  cases c.el <;> simp

/-- Every shared check passes. -/
def State.passesChecks (s : State) (cr : Option Refusal) (rt : Nibble) : Prop :=
  refusals s cr rt = none ∧ presenceCheck s = none ∧ accessCheck s.ctx = none

/-- Past the checks, an access does what its instruction does at EL3. -/
theorem sdcrAccess_of_passes {s : State} {cr : Option Refusal} {rt : Nibble} (h : s.passesChecks cr rt) (r : Result) :
    sdcrAccess s cr rt r = r := by
  obtain ⟨h1, h2, h3⟩ := h
  simp [sdcrAccess, h1, h2, h3]

/-- An access that answers a next state passed the checks. -/
theorem sdcrAccess_next {s t : State} {cr : Option Refusal} {rt : Nibble} {r : Result}
    (h : sdcrAccess s cr rt r = .next t) : s.passesChecks cr rt ∧ r = .next t := by
  unfold sdcrAccess at h
  split at h
  · simp [refuse] at h
  · split at h
    · simp [raise] at h
    · split at h
      · simp [raise] at h
      · exact ⟨⟨‹_›, ‹_›, ‹_›⟩, h⟩

/-- All a completed read does (R72). -/
theorem mrcSdcr_next {s t : State} {cr : Option Refusal} {rt : Nibble} (h : mrcSdcr cr rt s = .next t) :
    s.passesChecks cr rt ∧ t = (s.writeX rt s.sdcr).advancePc := by
  obtain ⟨ha, hr⟩ := sdcrAccess_next h
  exact ⟨ha, by cases hr; rfl⟩

/-- All a completed write does (R77, R78). -/
theorem mcrSdcr_next {s t : State} {cr : Option Refusal} {rt : Nibble} (h : mcrSdcr cr rt s = .next t) :
    s.passesChecks cr rt ∧ s.ctx.cp15sdisable2 = .low ∧
      t = (s.storeSdcr (storedValue s.cfg (Config.drawSpdKept s.draws) (s.readX rt))).advancePc := by
  obtain ⟨ha, hr⟩ := sdcrAccess_next h
  split at hr
  · simp [raise] at hr
  · rename_i hn
    refine ⟨ha, ?_, by cases hr; rfl⟩
    cases hs : s.ctx.cp15sdisable2 with
    | low => rfl
    | high => exact absurd hs hn

/-! The same for an instruction. -/

/-- The refusal for an instruction's condition in a state, if any (R65, R67). -/
def condRefusalOf (i : Instr) (s : State) : Option Refusal :=
  match i with
  | .mrcA32 cond _ => a32CondRefusal cond
  | .mcrA32 cond _ => a32CondRefusal cond
  | .mrcT32 _ => t32CondRefusal s
  | .mcrT32 _ => t32CondRefusal s

theorem condRefusalOf_none_iff (i : Instr) (s : State) : condRefusalOf i s = none ↔ condAdmitted i s = true := by
  cases i <;> simp [condRefusalOf, condAdmitted, a32CondRefusal_none_iff, t32CondRefusal_none_iff]

/-- R80's refusals pass exactly where the instruction is not refused. -/
theorem notRefused_iff (s : State) (i : Instr) : s.notRefused i ↔ refusals s (condRefusalOf i s) (rtOf i) = none := by
  rw [refusals_none_iff, rtAdmitted_iff, condRefusalOf_none_iff]
  unfold State.notRefused
  tauto

/-- The conditions of `admitsAccess` are those under which every shared check passes. -/
theorem admitsAccess_iff (s : State) (i : Instr) : s.admitsAccess i ↔ s.passesChecks (condRefusalOf i s) (rtOf i) := by
  unfold State.passesChecks
  rw [← notRefused_iff, presenceCheck_none_iff, accessCheck_none_iff]
  rfl

theorem admitsAccess_lt {s : State} {i : Instr} (h : s.admitsAccess i) : (rtOf i).toNat < 15 :=
  rt_lt_of_admitted ((rtAdmitted_iff (rtOf i)).2 ⟨h.1.1, h.1.2.1⟩)

end Sys2Proof.Machine
end

