-- ==== Sys2Proof/Laws/Controls.lean ====
section
/-!
SUPPORT. What an indirect read sees, and the Effective values where the fields govern the PE.
-/
namespace Sys2Proof.Machine

/-- Whatever is drawn, an indirect read sees SDCR or a stale value (R59 b). -/
theorem seen_maySee (s : State) (k : Nat) : s.maySee (s.seen k) := by
  simpa [State.maySee, State.seen] using pick_mem s.sdcr s.stale (Config.drawSeen k)

/-- A one-bit field is its bit of the value. -/
theorem fieldBit_eq (v : Word) (f : BitField) : fieldBit v f = BitVec.ofBool (v.getLsbD f.pos) := by
  unfold fieldBit
  ext i hi
  have : i = 0 := by omega
  subst this
  simp

/-- Where the fields govern, every query is in the domain (R46). -/
theorem inDomain_of_fieldsGovern {s : State} (h : s.fieldsGovern) (hasClause : Bool) :
    inDomain s.cfg s.ctx hasClause = true := by
  obtain ⟨_, hp, ha⟩ := h
  simp [inDomain, present, hp, ha]

/-- Where the fields govern, an Effective value is the bit of the value seen, or NoControl (R42). -/
theorem effBit_of_fieldsGovern {s : State} (h : s.fieldsGovern) (v : Word) (f : BitField) :
    effBit s.cfg s.ctx v f =
      if f.isField s.cfg then .value (BitVec.ofBool (v.getLsbD f.pos)) else .noControl := by
  obtain ⟨he, hp, ha⟩ := h
  cases hf : f.isField s.cfg <;> simp [effBit, noEL3Secure, present, he, hp, ha, hf, fieldBit_eq]

/-- Where the fields govern, the Effective value of SPD is that of the value seen (R42). -/
theorem effSpd_of_fieldsGovern {s : State} (h : s.fieldsGovern) (v : Word) :
    effSpd s.cfg s.ctx v = .value (spdBits v) := by
  obtain ⟨he, hp, ha⟩ := h
  simp [effSpd, noEL3Secure, present, he, hp, ha]

/-- Testing an Effective value for 1 where the fields govern. -/
theorem effBit_is_one {s : State} (h : s.fieldsGovern) (v : Word) (f : BitField) :
    (effBit s.cfg s.ctx v f).is 1#1 = (f.isField s.cfg && v.getLsbD f.pos) := by
  rw [effBit_of_fieldsGovern h]
  cases f.isField s.cfg <;> cases v.getLsbD f.pos <;> decide

/-- Testing an Effective value for 0 where the fields govern. -/
theorem effBit_is_zero {s : State} (h : s.fieldsGovern) (v : Word) (f : BitField) :
    (effBit s.cfg s.ctx v f).is 0#1 = (f.isField s.cfg && !v.getLsbD f.pos) := by
  rw [effBit_of_fieldsGovern h]
  cases f.isField s.cfg <;> cases v.getLsbD f.pos <;> decide

end Sys2Proof.Machine
end

