-- ==== Sys2Proof/Laws/Decode.lean ====
section
/-!
SUPPORT. The byte layout and the fields of an encoded word: laying a number out and joining it again are inverse, and
each field of an assembled word reads back what was put there.
-/
namespace Sys2Proof

theorem joinBytes_extract (w : Word) :
    joinBytes (w.extractLsb' 0 8) (w.extractLsb' 8 8) (w.extractLsb' 16 8) (w.extractLsb' 24 8) = w := by
  unfold joinBytes
  ext n hn
  interval_cases n <;> simp

theorem extract_joinBytes (b0 b1 b2 b3 : Byte) :
    (joinBytes b0 b1 b2 b3).extractLsb' 0 8 = b0 ∧ (joinBytes b0 b1 b2 b3).extractLsb' 8 8 = b1 ∧
      (joinBytes b0 b1 b2 b3).extractLsb' 16 8 = b2 ∧ (joinBytes b0 b1 b2 b3).extractLsb' 24 8 = b3 := by
  unfold joinBytes
  refine ⟨?_, ?_, ?_, ?_⟩ <;> (ext n hn; interval_cases n <;> simp)

/-- The bytes of the number that four bytes hold are those four bytes. -/
theorem wordBytes_bytesWord (iset : ISet) (b0 b1 b2 b3 : Byte) :
    wordBytes iset (bytesWord iset b0 b1 b2 b3) = [b0, b1, b2, b3] := by
  cases iset with
  | a32 =>
    obtain ⟨h0, h1, h2, h3⟩ := extract_joinBytes b0 b1 b2 b3
    simp only [wordBytes, bytesWord, h0, h1, h2, h3]
  | t32 =>
    obtain ⟨h0, h1, h2, h3⟩ := extract_joinBytes b2 b3 b0 b1
    simp only [wordBytes, bytesWord, h0, h1, h2, h3]

/-- Decoding the bytes of a number decodes the number. -/
theorem decode_wordBytes (iset : ISet) (w : Word) (rest : List Byte) :
    decode iset (wordBytes iset w ++ rest) = (decodeWord iset w).map (fun i => (i, rest)) := by
  cases iset with
  | a32 =>
    simp only [wordBytes, List.cons_append, List.nil_append, decode, bytesWord, joinBytes_extract]
    cases decodeWord .a32 w <;> rfl
  | t32 =>
    simp only [wordBytes, List.cons_append, List.nil_append, decode, bytesWord, joinBytes_extract]
    cases decodeWord .t32 w <;> rfl

/-- The fields of an assembled word (R66). -/
theorem assembleWord_fields : ∀ (cond rt : Nibble) (isRead : Bool),
    wordCond (assembleWord cond isRead rt) = cond ∧ wordRt (assembleWord cond isRead rt) = rt ∧
      wordTuple (assembleWord cond isRead rt) = sdcrTuple ∧ wordIsRead (assembleWord cond isRead rt) = isRead ∧
      wordIsRegisterTransfer (assembleWord cond isRead rt) = true := by
  decide

end Sys2Proof
end

