-- ==== Sys2Proof/Laws/PerInstr.lean ====
section
/-!
SUPPORT. The per-instruction family of LAWS.json: the encoder writes a word that the row's mask and match of R68
select.
-/
namespace Sys2Proof.Laws

/-- The encoded word of a well-formed instruction agrees with its row's mask and match (R68). -/
def RowSelected.Statement (i : Instr) : Prop :=
  i.wellFormed = true → encodeWord i &&& rowMask i = rowMatch i

theorem RowSelected.mrcA32 (cond rt : Nibble) : RowSelected.Statement (.mrcA32 cond rt) := by
  intro _
  revert cond rt
  decide

theorem RowSelected.mcrA32 (cond rt : Nibble) : RowSelected.Statement (.mcrA32 cond rt) := by
  intro _
  revert cond rt
  decide

theorem RowSelected.mrcT32 (rt : Nibble) : RowSelected.Statement (.mrcT32 rt) := by
  intro _
  revert rt
  decide

theorem RowSelected.mcrT32 (rt : Nibble) : RowSelected.Statement (.mcrT32 rt) := by
  intro _
  revert rt
  decide

end Sys2Proof.Laws
end

