-- ==== Sys2Proof/Laws/Step.lean ====
section
/-!
SUPPORT. What one step can do, said once.
-/
namespace Sys2Proof.Machine

/-- All an instruction that completes does: the checks passed, and a read copies SDCR, a write stores. -/
theorem exec_next {i : Instr} {s t : State} (h : exec i s = .next t) :
    s.admitsAccess i ∧
    ((isWrite i = false ∧ t = (s.writeX (rtOf i) s.sdcr).advancePc) ∨
     (isWrite i = true ∧ s.ctx.cp15sdisable2 = .low ∧
        t = (s.storeSdcr (storedValue s.cfg (Config.drawSpdKept s.draws) (s.readX (rtOf i)))).advancePc)) := by
  rw [admitsAccess_iff]
  cases i with
  | mrcA32 cond rt => exact ⟨(mrcSdcr_next h).1, .inl ⟨rfl, (mrcSdcr_next h).2⟩⟩
  | mrcT32 rt => exact ⟨(mrcSdcr_next h).1, .inl ⟨rfl, (mrcSdcr_next h).2⟩⟩
  | mcrA32 cond rt => exact ⟨(mcrSdcr_next h).1, .inr ⟨rfl, (mcrSdcr_next h).2⟩⟩
  | mcrT32 rt => exact ⟨(mcrSdcr_next h).1, .inr ⟨rfl, (mcrSdcr_next h).2⟩⟩

/-- Running the instruction at the program counter completes only by executing a decoded instruction. -/
theorem runInstruction_next {s t : State} (h : runInstruction s = .next t) :
    ∃ i rest, decode s.iset s.nextBytes = .ok (i, rest) ∧ exec i s = .next t := by
  unfold runInstruction at h
  split at h
  · exact ⟨_, _, ‹_›, h⟩
  · split at h <;> simp [raise, refuse] at h

/-- A query that completes records an answer and spends two draws. -/
theorem ask_next {q : Query} {s t : State} (h : ask q s = .next t) :
    ∃ a, answer s q = .ok a ∧ t = { s with lastAnswer := some a, draws := s.draws + 2 } := by
  unfold ask at h
  split at h
  · exact ⟨_, ‹_›, by cases h; rfl⟩
  · simp [refuse] at h

/-- An access that TDCC and TTRF let go on spends two draws at most. -/
theorem guardedAccess_next {acc : SysRegAccess} {s t : State} (h : guardedAccess acc s = .next t) :
    t = s ∨ t = { s with draws := s.draws + 2 } := by
  unfold guardedAccess at h
  split at h
  · cases h; exact .inl rfl
  · split at h
    · simp [refuse] at h
    · split at h
      · simp [raise] at h
      · cases h; exact .inr rfl

/-- A step of the enclosing machine leaves its effect, and synchronises when `is_context_sync` holds. -/
theorem enclosingStep_next {k : StepKind} {e : EnclosingEffect} {s t : State} (h : enclosingStep k e s = .next t) :
    (s.cfg.contextSyncSteps.contains k = true ∧ t = (s.applyEnclosing e).synchronise) ∨
    (s.cfg.contextSyncSteps.contains k = false ∧ t = s.applyEnclosing e) := by
  unfold enclosingStep at h
  split at h
  · cases h; exact .inl ⟨‹_›, rfl⟩
  · rename_i hk
    cases h; exact .inr ⟨by simpa using hk, rfl⟩

/-- Every instruction is the shared checks, then what it does at EL3: a write stops there when `CP15SDISABLE2` is
high, and all else completes. -/
theorem exec_eq_sdcrAccess (i : Instr) (s : State) :
    ∃ t, exec i s = sdcrAccess s (condRefusalOf i s) (rtOf i)
      (if isWrite i = true ∧ s.ctx.cp15sdisable2 = .high then .fault .undefined else .next t) := by
  cases i with
  | mrcA32 cond rt => exact ⟨_, by simp [isWrite]; rfl⟩
  | mrcT32 rt => exact ⟨_, by simp [isWrite]; rfl⟩
  | mcrA32 cond rt => exact ⟨_, by simp [isWrite]; rfl⟩
  | mcrT32 rt => exact ⟨_, by simp [isWrite]; rfl⟩

/-- All a step that completes can have been. -/
theorem step_next {s t : State} (h : step s = .next t) :
    (s.nextEvent = .instruction ∧ ∃ i rest, decode s.iset s.nextBytes = .ok (i, rest) ∧ exec i s.popEvent = .next t) ∨
    (∃ k e, s.nextEvent = .enclosing k e ∧
      ((s.cfg.contextSyncSteps.contains k = true ∧ t = (s.popEvent.applyEnclosing e).synchronise) ∨
       (s.cfg.contextSyncSteps.contains k = false ∧ t = s.popEvent.applyEnclosing e))) ∨
    (∃ acc, s.nextEvent = .guardedAccess acc ∧ (t = s.popEvent ∨ t = { s.popEvent with draws := s.draws + 2 })) ∨
    (s.nextEvent = .reset ∧ t = s.popEvent.applyReset) ∨
    (∃ c, s.nextEvent = .inputs c ∧ t = { s.popEvent with ctx := c }) ∨
    (∃ q a, s.nextEvent = .query q ∧ t = { s.popEvent with lastAnswer := some a, draws := s.draws + 2 }) := by
  unfold step at h
  cases hn : s.nextEvent <;> rw [hn] at h
  case instruction =>
    obtain ⟨i, rest, hd, he⟩ := runInstruction_next h
    exact .inl ⟨rfl, i, rest, hd, he⟩
  case enclosing k e => exact .inr (.inl ⟨k, e, rfl, enclosingStep_next h⟩)
  case guardedAccess acc => exact .inr (.inr (.inl ⟨acc, rfl, guardedAccess_next h⟩))
  case reset =>
    cases h
    exact .inr (.inr (.inr (.inl ⟨rfl, rfl⟩)))
  case inputs c =>
    cases h
    exact .inr (.inr (.inr (.inr (.inl ⟨c, rfl, rfl⟩))))
  case query q =>
    obtain ⟨a, _, ht⟩ := ask_next h
    exact .inr (.inr (.inr (.inr (.inr ⟨q, a, rfl, ht⟩))))

end Sys2Proof.Machine
end

