-- ==== Sys2Proof/Tests/Slice0.lean ====
section
/-!
SUPPORT. The model's own tests: expected values are those of 95_test_vectors.md (the vector's name stands in the
comment) or are worked out from the rule named. Then, for each statement with hypotheses, a state that meets them.
-/
namespace Sys2Proof.Tests
open Sys2Proof.Machine

/-! Helpers: the configurations and contexts of 95_test_vectors.md section 0. -/

def cfgFull : Config := resetConfig

def cfgMin : Config :=
  { resetConfig with
    featMTPMU := false, featFGT := false, featPMUv3p5 := false, featDebugv8p4 := false, featDebugv8p2 := false,
    featPMUv3 := false, featTRF := false, pmuExtDebugIf := false }

def cfgPMU : Config := { cfgMin with featPMUv3 := true, pmuExtDebugIf := true }

def cfgPMUnoExt : Config := { cfgMin with featPMUv3 := true }

def cfgTRF : Config := { cfgMin with featTRF := true }

def cfgV82 : Config := { cfgPMU with featDebugv8p2 := true }

def cfgNoEL3 : Config := { resetConfig with haveEL3 := false, el3AArch32Capable := false }

def cfgA64only : Config := { resetConfig with el3AArch32Capable := false }

/-- A context by its privilege inputs. -/
def ctxAt (el : EL) (secure e2 a2 : Bool) (t2 t1 : Bit) (a3 : Bool) (pin : Signal) : Ctx :=
  { resetCtx with
    el := el, secure := secure, el2Enabled := e2, el2AArch32 := a2, hstrEL2T1 := t2, hstrT1 := t1,
    el3AArch32 := a3, cp15sdisable2 := pin }

/-- A small state: a configuration, a context, SDCR, and one general register. -/
def st (c : Config) (x : Ctx) (sdcr : Word) (rt : Nibble) (v : Word) : State :=
  ({ State.reset with cfg := c, ctx := x, sdcr := sdcr } : State).writeX rt v

/-- A register of the next state, if there is one. -/
def regAfter (r : Result) (rt : Nibble) : Option Word :=
  match r with
  | .next t => some (t.readX rt)
  | .fault _ => none
  | .refused _ => none

/-- SDCR in the next state, if there is one. -/
def sdcrAfter (r : Result) : Option Word :=
  match r with
  | .next t => some t.sdcr
  | .fault _ => none
  | .refused _ => none

/-- The fault, if there is one. -/
def faultOf (r : Result) : Option Fault :=
  match r with
  | .next _ => none
  | .fault f => some f
  | .refused _ => none

/-- The refusal, if there is one. -/
def refusalOf (r : Result) : Option Refusal :=
  match r with
  | .next _ => none
  | .fault _ => none
  | .refused e => some e

/-! WellFormed: each check refuses an ill-formed term. -/

theorem test_wellFormed_refuses_mrc_cond_1111 : (Instr.mrcA32 0b1111#4 0#4).wellFormed = false := by decide
theorem test_wellFormed_refuses_mcr_cond_1111 : (Instr.mcrA32 0b1111#4 0#4).wellFormed = false := by decide
theorem test_wellFormed_admits_the_rest :
    (Instr.mrcA32 0b1110#4 0#4).wellFormed ∧ (Instr.mrcT32 15#4).wellFormed ∧ (Instr.mcrT32 0#4).wellFormed := by
  decide

/-! Decoding: words written out bit by bit from R66, R67, and vectors E1 to E17. -/

/-- `cond` 1110, `1110`, opc1 000, L 1, CRn 0001, Rt 1110, coproc 1111, opc2 001, `1`, CRm 0011 (R66; E6). -/
theorem test_decode_mrcA32_bits :
    decodeWord .a32 0b11101110000100011110111100110011#32 = .ok (.mrcA32 0b1110#4 14#4) := by decide

/-- The same with L 0, Rt 0101 (R66; E4). -/
theorem test_decode_mcrA32_bits :
    decodeWord .a32 0b11101110000000010101111100110011#32 = .ok (.mcrA32 0b1110#4 5#4) := by decide

/-- E16: halfwords `1110111000010001`, `0000111100110011`, each in two bytes, the lower first (R67, log 12). -/
theorem test_decode_mrcT32_bytes :
    decode .t32 [0b00010001#8, 0b11101110#8, 0b00110011#8, 0b00001111#8] = .ok (.mrcT32 0#4, []) := by decide

/-- E17: halfwords `1110111000000001`, `0010111100110011`. -/
theorem test_decode_mcrT32_bytes :
    decode .t32 [0b00000001#8, 0b11101110#8, 0b00110011#8, 0b00101111#8] = .ok (.mcrT32 2#4, []) := by decide

/-- E1 as A32 bytes, little-endian (log 12). -/
theorem test_decode_mrcA32_bytes : decode .a32 [0x33#8, 0x0F#8, 0x11#8, 0xEE#8] = .ok (.mrcA32 0b1110#4 0#4, []) := by
  decide

/-- E9, E10. -/
theorem test_decode_conditions :
    decodeWord .a32 0x0E110F33#32 = .ok (.mrcA32 0#4 0#4) ∧
      decodeWord .a32 0xFE110F33#32 = .error .condNotACondition := by decide

/-- E11 to E15: no other tuple is an access to SDCR. -/
theorem test_decode_refuses_other_tuples :
    [0xEE110F13#32, 0xEE110F31#32, 0xEE310F33#32, 0xEE110E33#32, 0xEE120F33#32].all
      (fun w => decodeWord .a32 w == .error (.otherTuple (wordTuple w))) = true := by decide

/-- R71: a T32 first halfword whose bits 15:11 begin no 4-byte instruction. -/
theorem test_decode_t32_narrow : decode .t32 [0x00#8, 0xBF#8] = .error .t32Narrow := by decide

/-- A line of the template of R62 for SDCR, with register 3. -/
def line (isRead : Bool) (cond : Option Nibble) (q : Option Qualifier) (opc2 : Option (BitVec 3)) : AsmLine :=
  { isRead := isRead, cond := cond, qualifier := q, coproc := 15, opc1 := 0, rt := 3, crn := 1, crm := 3, opc2 := opc2 }

/-- R63: an omitted `<opc2>` encodes 0, which is not SDCR's tuple; written, it is, with either `<q>` (log 32). -/
theorem test_assembler_line :
    (line true none (some .w) none).instr .a32 = .error (.otherTuple { sdcrTuple with opc2 := 0 }) ∧
      (line true none (some .w) (some 1)).instr .a32 = .ok (.mrcA32 0b1110#4 3#4) ∧
      (line false (some 0b1110#4) (some .n) (some 1)).instr .t32 = .ok (.mcrT32 3#4) := by decide

/-- R65, D6: `MCREQ` stands for no T32 instruction, and in A32 for one that is refused (E9); R66: no `<c>` is `0b1111`. -/
theorem test_assembler_conditions :
    (line false (some 0#4) none (some 1)).instr .t32 = .error (.conditionNotAlways 0#4) ∧
      (line false (some 0#4) none (some 1)).instr .a32 = .ok (.mcrA32 0#4 3#4) ∧
      (line false (some 0b1111#4) none (some 1)).instr .a32 = .error .notACondition ∧
      (line true (some 0b1111#4) none (some 1)).instr .t32 = .error .notACondition := by decide

/-- The table's four rows at their match values. -/
theorem test_decodeTableWord :
    decodeTableWord 32 0x0E110F33 = some (.mrcA32 0#4 0#4) ∧ decodeTableWord 32 0x0E010F33 = some (.mcrA32 0#4 0#4) ∧
      decodeTableWord 32 0xEE110F33 = some (.mrcT32 0#4) ∧ decodeTableWord 32 0xEE010F33 = some (.mcrT32 0#4) := by
  decide

/-! RES0 masks and stored values. -/

/-- 95_test_vectors.md sections 0 and 4. -/
theorem test_res0Mask :
    res0Mask cfgFull = 0xE7413FFF#32 ∧ res0Mask cfgMin = 0xFFEF3FFF#32 ∧ res0Mask cfgPMU = 0xFFCD3FFF#32 ∧
      res0Mask cfgPMUnoExt = 0xFFED3FFF#32 ∧ res0Mask cfgTRF = 0xFFE33FFF#32 := by decide

/-- W1, W8, W11, W15, W16, W17. -/
theorem test_storedValue :
    storedValue cfgFull true 0xFFFFFFFF#32 = 0x18BEC000#32 ∧
      storedValue { cfgFull with res0WritableMask := 0x3FFF#32 } true 0xFFFFFFFF#32 = 0x18BEFFFF#32 ∧
      storedValue cfgMin true 0x0002C000#32 = 0x0000C000#32 ∧ storedValue cfgPMU true 0x18BEC000#32 = 0x0032C000#32 ∧
      storedValue cfgPMUnoExt true 0xFFFFFFFF#32 = 0x0012C000#32 ∧
      storedValue cfgTRF true 0xFFFFFFFF#32 = 0x001CC000#32 := by decide

/-- W7, W13: both draws of the reserved SPD value. -/
theorem test_storedValue_spd_draw :
    storedValue cfgFull true 0xFFFF7FFF#32 = 0x18BE4000#32 ∧ storedValue cfgFull false 0xFFFF7FFF#32 = 0x18BE0000#32 ∧
      storedValue { cfgMin with res0WritableMask := 0x3FFF#32 } true 0xFFFF7FFF#32 = 0x00107FFF#32 ∧
      storedValue { cfgMin with res0WritableMask := 0x3FFF#32 } false 0xFFFF7FFF#32 = 0x00103FFF#32 := by decide

/-! The instructions. -/

/-- R72's example: SDCR 0x0002C000 is read into R2. -/
theorem test_mrcA32_reads :
    regAfter (exec (.mrcA32 0b1110#4 2#4) (st cfgFull resetCtx 0x0002C000#32 2#4 0#32)) 2#4 = some 0x0002C000#32 := by
  decide

/-- A6, P4 step 1: a read ignores CP15SDISABLE2. -/
theorem test_mrcT32_ignores_cp15sdisable2 :
    regAfter (exec (.mrcT32 5#4)
      (st cfgFull (ctxAt .el3 true false false 0 0 true .high) 0x00108000#32 5#4 0#32)) 5#4 = some 0x00108000#32 := by
  decide

/-- R77's example: 0x00008000 is stored whole. -/
theorem test_mcrA32_stores :
    sdcrAfter (exec (.mcrA32 0b1110#4 0#4) (st cfgFull resetCtx 0x0000C000#32 0#4 0x00008000#32)) =
      some 0x00008000#32 := by decide

/-- P4 step 2: a write while CP15SDISABLE2 is high is Undefined. -/
theorem test_mcrT32_cp15sdisable2 :
    faultOf (exec (.mcrT32 6#4)
      (st cfgFull (ctxAt .el3 true false false 0 0 true .high) 0x00108000#32 6#4 0x0000C000#32)) =
      some .undefined := by decide

/-- A32, R14 is admitted; A28 to A31: 13, 15, a condition, Debug state are refused; R67, D6: so is T32 inside an IT block. -/
theorem test_refusals :
    regAfter (exec (.mrcA32 0b1110#4 14#4) (st cfgFull resetCtx 5#32 14#4 0#32)) 14#4 = some 5#32 ∧
      refusalOf (exec (.mrcA32 0b1110#4 13#4) State.reset) = some (.rtNotAdmitted 13#4) ∧
      refusalOf (exec (.mcrT32 15#4) State.reset) = some (.rtNotAdmitted 15#4) ∧
      refusalOf (exec (.mcrA32 0b0001#4 0#4) State.reset) = some (.conditionNotAlways 0b0001#4) ∧
      refusalOf (exec (.mrcT32 0#4) { State.reset with itCond := some 0b0001#4 }) = some (.insideItBlock 0b0001#4) ∧
      refusalOf (exec (.mcrT32 0#4) { State.reset with itCond := some 0b1110#4 }) = some (.insideItBlock 0b1110#4) ∧
      refusalOf (exec (.mrcT32 0#4) { State.reset with ctx := { resetCtx with debugState := true } }) =
        some .debugState := by decide

/-- A2, A4, A8, A10, A13, A15, A18 in order. -/
theorem test_privilege_arms :
    [ctxAt .el0 true true false 1 1 false .low, ctxAt .el2 true true false 1 0 false .low,
     ctxAt .el1 false true false 1 0 true .low, ctxAt .el1 false true true 0 1 true .low,
     ctxAt .el1 true true false 0 0 true .low, ctxAt .el1 true false false 0 0 false .low,
     ctxAt .el1 true true true 0 0 true .low].map
      (fun x => faultOf (exec (.mcrA32 0b1110#4 0#4) (st cfgFull x 0#32 0#4 0#32))) =
    [some .undefined, some .undefined, some (.sysAccessTrapA64 .el2 3), some (.hypTrap 3),
     some (.sysAccessTrapA64 .el2 3), some (.sysAccessTrapA64 .el3 3), some .undefined] := by decide

/-- A22, A23, A26, A27: the absent register. -/
theorem test_absent_register :
    [ctxAt .el3 true false false 0 0 false .low, ctxAt .el0 false false false 0 0 false .low,
     ctxAt .el1 true true false 0 0 false .low, ctxAt .el1 true false false 1 1 false .low].map
      (fun x => faultOf (exec (.mrcT32 0#4) (st cfgA64only x 0#32 0#4 0#32))) =
    [some .undefined, some .undefined, some .undefined, some .undefined] := by decide

/-! Steps. -/

/-- From reset, the table's T32 rows run as the first instruction; the program counter moves by 4 (R50). -/
theorem test_step_runs_table_words :
    regAfter (step (State.reset.withFetchWord 32 0xEE110F33)) 15#4 = some 4#32 ∧
      sdcrAfter (step (State.reset.withFetchWord 32 0xEE010F33)) = some 0#32 ∧
      refusalOf (step (State.reset.withFetchWord 32 0x0E110F33)) = some (.conditionNotAlways 0#4) := by decide

/-- P1 step 1: the whole word written, the old value stale. -/
theorem test_step_mcr_boot :
    (match step ((st cfgFull resetCtx 7#32 0#4 0xFFFFFFFF#32).withFetchWord 32 0xEE010F33) with
      | .next t => t.sdcr == 0x18BEC000#32 && t.stale == [7#32] && t.pc == 4#32
      | .fault _ => false
      | .refused _ => false) = true := by decide

/-- R98: reset. -/
theorem test_step_reset :
    sdcrAfter (step { State.reset with
      cfg := { cfgFull with sdcrReset := 0x8000#32 }, sdcr := 1#32, stale := [3#32], schedule := [.reset] }) =
      some 0x8000#32 := by decide

/-! Effective values (X1 to X8) and predicates (Q), with nothing stale. -/

/-- The state of a predicate vector. -/
def qst (c : Config) (x : Ctx) (sdcr : Word) : State := { State.reset with cfg := c, ctx := x, sdcr := sdcr }

/-- X2, X3, X5, X7, X8. -/
theorem test_effective_values :
    answer (qst cfgFull resetCtx 0x18BEC000#32) (.effBit .mtpme) = .ok (.effBit (.value 1)) ∧
      answer (qst cfgMin resetCtx 0x0010C000#32) (.effBit .ttrf) = .ok (.effBit .noControl) ∧
      answer (qst cfgNoEL3 resetCtx 0) .effSpd = .ok (.effSpd (.value 3)) ∧
      answer (qst cfgA64only resetCtx 0) (.effBit .edad) = .ok (.effBit .noMeaning) ∧
      answer (qst { cfgMin with haveEL3 := false, el3AArch32Capable := false } resetCtx 0) (.effBit .edad) =
        .ok (.effBit (.value 1)) := by decide

/-- D19: no value while EL3 is using AArch64, but `NoControl` stays (log 22). -/
theorem test_effective_values_aarch64 :
    let x : Ctx := { resetCtx with el3AArch32 := false }
    answer (qst cfgFull x 0x18BEC000#32) (.effBit .mtpme) = .ok (.effBit .noMeaning) ∧
      answer (qst cfgFull x 0x18BEC000#32) .effSpd = .ok (.effSpd .noMeaning) ∧
      answer (qst cfgMin x 0) (.effBit .ttrf) = .ok (.effBit .noControl) := by decide

/-- Q1, Q3, Q4, Q5. -/
theorem test_mtpme :
    answer (qst cfgFull { resetCtx with pmevtyperMT := [3] } 0) (.pmevtyperMT 3) = .ok (.bit 0) ∧
      answer (qst { cfgFull with impdefMtpmeAffinity := true }
        { resetCtx with pmevtyperMT := [3], otherPeMtpmuDisabled := true } 0x10000000#32) (.pmevtyperMT 3) =
        .ok (.bit 0) ∧
      answer (qst cfgFull { resetCtx with pmevtyperMT := [3], otherPeMtpmuDisabled := true } 0x10000000#32)
        (.pmevtyperMT 3) = .ok (.bit 1) ∧
      answer (qst cfgMin { resetCtx with pmevtyperMT := [0] } 0) (.pmevtyperMT 0) = .ok (.bit 1) := by decide

/-- The configuration of Q6 to Q11. -/
def cfgDcc : Config := { cfgFull with dccTrappedRegs := [.other 1, .other 2], dccDebugExemptRegs := [.other 2] }

/-- Q6 to Q9, Q33 to Q35 as steps. -/
theorem test_monitor_traps :
    [ (cfgDcc, 0x08000000#32, false, false, RegName.other 2), (cfgDcc, 0x08000000#32, false, true, RegName.other 2),
      (cfgDcc, 0x08000000#32, false, true, RegName.other 1), (cfgDcc, 0x08000000#32, true, false, RegName.other 2),
      (cfgTRF, 0x00080000#32, false, false, RegName.trfcr), (cfgTRF, 0x00080000#32, false, true, RegName.htrfcr),
      (cfgTRF, 0x00080000#32, true, false, RegName.trfcr) ].map
      (fun (c, v, monitor, debug, r) =>
        (faultOf (guardedAccess ⟨r, true⟩
          (qst c { resetCtx with monitorMode := monitor, debugState := debug } v))).isSome) =
    [true, false, true, false, true, true, false] := by decide

/-- Q13 to Q15, Q58. -/
theorem test_sccd :
    answer (qst cfgFull { resetCtx with el := .el1 } 0x00800000#32) .pmccntrProhibitedBySccd = .ok (.truth true) ∧
      answer (qst cfgFull { resetCtx with el := .el1, secure := false } 0x00800000#32) .pmccntrProhibitedBySccd =
        .ok (.truth false) ∧
      answer (qst cfgFull { resetCtx with secure := false } 0x00800000#32) .pmccntrProhibitedBySccd =
        .ok (.truth true) ∧
      answer (qst cfgFull resetCtx 0x00800000#32) .pmccntrStopped = .ok (.truth true) := by decide

/-- Q17, Q18, Q19, Q20, Q21, Q22. -/
theorem test_epmad :
    [ (cfgFull, false, true), (cfgFull, false, false), (cfgFull, true, true), (cfgPMU, false, false),
      (cfgPMU, true, false), (cfgPMUnoExt, false, true) ].map
      (fun (c, ovr, ns) => answer (qst c { resetCtx with authEpmadOverride := ovr } 0x00200000#32) (.extPmuForbidden ns)) =
    [true, false, true, true, false, false].map (fun b => Except.ok (Answer.truth b)) := by decide

/-- Q23 to Q29, Q31. -/
theorem test_edad :
    [ (cfgFull, false, DebugClass.breakpoint, true), (cfgFull, false, .oslarEL1, false),
      (cfgFull, false, .otherDebug, true), (cfgV82, false, .watchpoint, false), (cfgV82, true, .oslarEL1, false),
      (cfgMin, false, .oslarEL1, false), ({ cfgMin with impdefEdadBlocksOslar := true }, false, .oslarEL1, false),
      (cfgMin, true, .breakpoint, false) ].map
      (fun (c, ovr, cls, ns) =>
        answer (qst c { resetCtx with authEdadOverride := ovr } 0x00100000#32) (.extDebugForbidden cls ns)) =
    [true, false, false, true, false, false, true, false].map (fun b => Except.ok (Answer.truth b)) := by decide

/-- Q37 to Q40. -/
theorem test_ste :
    [ (0x00000000#32, true, false), (0x00000000#32, true, true), (0x00040000#32, true, false),
      (0x00000000#32, false, false) ].map
      (fun (v, sec, ovr) =>
        answer (qst cfgTRF { resetCtx with secure := sec, authSteOverride := ovr } v) .secureTraceProhibited) =
    [true, false, false, false].map (fun b => Except.ok (Answer.truth b)) := by decide

/-- Q41 to Q47: event counting, and PMCCNTR. -/
theorem test_spme :
    [ (cfgV82, 0x00000000#32, true, 0#1, false), (cfgV82, 0x00000000#32, true, 1#1, true),
      (cfgV82, 0x00020000#32, true, 1#1, false), (cfgV82, 0x00000000#32, false, 1#1, false),
      (cfgPMU, 0x00000000#32, true, 1#1, false), (cfgPMU, 0x00000000#32, true, 1#1, true),
      (cfgPMU, 0x00000000#32, true, 0#1, false) ].map
      (fun (c, v, sec, dp, auth) =>
        let s := qst c { resetCtx with secure := sec, pmcrDP := dp, extSecNoninvasiveDbgEn := auth } v
        (answer s .eventCountingProhibited, answer s .pmccntrDisabledBySpme)) =
    [(true, false), (true, true), (false, false), (false, false), (true, true), (false, false), (true, false)].map
      (fun (a, b) => (Except.ok (Answer.truth a), Except.ok (Answer.truth b))) := by decide

/-- Q49 to Q55: debug exceptions from EL3, and from Secure EL0. -/
theorem test_spd :
    [ (0x00000000#32, true, 0#1), (0x00000000#32, false, 0#1), (0x00000000#32, false, 1#1), (0x00004000#32, true, 0#1),
      (0x00008000#32, true, 0#1), (0x00008000#32, true, 1#1), (0x0000C000#32, false, 0#1) ].map
      (fun (v, auth, suiden) =>
        let s := qst cfgFull { resetCtx with authEl3DebugEnable := auth, sderSUIDEN := suiden } v
        (answer s .el3DebugExceptionsEnabled, answer s .secureEL0DebugExceptionsEnabled)) =
    [(true, true), (false, false), (false, true), (true, true), (false, false), (false, true), (true, true)].map
      (fun (a, b) => (Except.ok (Answer.truth a), Except.ok (Answer.truth b))) := by decide

/-! Synchronisation (Y): what an indirect read may see. -/

/-- Y4: two writes leave both old values stale. -/
theorem test_stale_after_two_writes :
    staleInsert 0x00008000#32 (staleInsert 0x0000C000#32 []) = [0x00008000#32, 0x0000C000#32] := by decide

/-- Y5: a synchronising step empties `Stale`; another does not. -/
theorem test_synchronising_step :
    [StepKind.isb, StepKind.other 0].map (fun k =>
      match step { State.reset with
        stale := [1#32]
        schedule := [.enclosing k ⟨8#32, Vector.replicate 15 0#32, .a32, none, []⟩] } with
      | .next t => (t.stale, t.pc)
      | .fault _ => ([], 0#32)
      | .refused _ => ([], 0#32)) = [([], 8#32), ([1#32], 8#32)] := by decide

/-! Witnesses: for each statement with hypotheses, a state that meets them all. -/

/-- A state at EL3 that holds an instruction's encoding at its program counter. -/
def holding (i : Instr) : State :=
  { State.reset with mem := memWriteBytes [] 0#32 (encode i), iset := i.iset }

theorem witness_admitsAccess :
    State.reset.admitsAccess (.mrcA32 0b1110#4 14#4) ∧ State.reset.admitsAccess (.mcrA32 0b1110#4 0#4) ∧
      State.reset.admitsAccess (.mrcT32 14#4) ∧ State.reset.admitsAccess (.mcrT32 0#4) := by
  decide

theorem witness_MrcCompletesAndCopiesSdcr :
    (12#4).toNat < 15 ∧ State.reset.admitsAccess (.mrcA32 0b1110#4 12#4) ∧
      State.reset.admitsAccess (.mrcT32 12#4) := by
  decide

theorem witness_McrCompletesAndStores :
    (12#4).toNat < 15 ∧ State.reset.ctx.cp15sdisable2 = .low ∧ State.reset.admitsAccess (.mcrA32 0b1110#4 12#4) ∧
      State.reset.admitsAccess (.mcrT32 12#4) := by
  decide

/-- With data whose SPD is reserved, and with data whose SPD is not. -/
theorem witness_McrStoresEachBitAsWritten :
    let i := Instr.mcrT32 14#4
    let s := st cfgFull resetCtx 0#32 14#4 0x00004000#32
    let u := st cfgFull resetCtx 0#32 14#4 0x0000C000#32
    (rtOf i).toNat < 15 ∧ isWrite i = true ∧ s.admitsAccess i ∧ s.ctx.cp15sdisable2 = .low ∧
      spdBits (s.readX 14#4) = 0b01#2 ∧ u.admitsAccess i ∧ u.ctx.cp15sdisable2 = .low ∧
      spdBits (u.readX 14#4) ≠ 0b01#2 := by
  decide

theorem witness_MrcFrame :
    (∃ t, isWrite (.mrcA32 0b1110#4 3#4) = false ∧ exec (.mrcA32 0b1110#4 3#4) State.reset = .next t) ∧
      ∃ t, isWrite (.mrcT32 3#4) = false ∧ exec (.mrcT32 3#4) State.reset = .next t :=
  ⟨⟨_, rfl, rfl⟩, ⟨_, rfl, rfl⟩⟩

theorem witness_McrFrame :
    (∃ t, isWrite (.mcrA32 0b1110#4 3#4) = true ∧ exec (.mcrA32 0b1110#4 3#4) State.reset = .next t) ∧
      ∃ t, isWrite (.mcrT32 3#4) = true ∧ exec (.mcrT32 3#4) State.reset = .next t :=
  ⟨⟨_, rfl, rfl⟩, ⟨_, rfl, rfl⟩⟩

/-- Each Exception level, with a write under a low signal at EL3. -/
theorem witness_PrivilegeCheckArms :
    ∀ el ∈ [EL.el0, .el1, .el2, .el3],
      let s := st cfgFull (ctxAt el true true false 1 0 false .low) 0#32 0#4 0#32
      s.notRefused (.mcrA32 0b1110#4 14#4) ∧ s.cfg.el3AArch32Capable = true ∧ s.ctx.el = el ∧
        s.ctx.cp15sdisable2 = .low := by
  decide

theorem witness_El1TablePartitionsAndDecides :
    let s := st cfgFull (ctxAt .el1 true true true 0 0 true .low) 0#32 0#4 0#32
    s.notRefused (.mrcT32 0#4) ∧ s.cfg.el3AArch32Capable = true ∧ s.ctx.el = .el1 := by
  decide

/-- The corner of R73 (vectors A24, A25) and an access outside it. -/
theorem witness_AbsentRegisterIsUndefined :
    ∀ x ∈ [ctxAt .el1 false true false 1 0 false .low, ctxAt .el1 false true true 0 1 false .low,
           ctxAt .el3 true false false 0 0 false .low],
      (st cfgA64only x 0#32 0#4 0#32).notRefused (.mrcA32 0b1110#4 0#4) ∧
        (st cfgA64only x 0#32 0#4 0#32).cfg.el3AArch32Capable = false := by
  decide

theorem witness_Cp15sdisable2StopsWritesOnly :
    ∀ i ∈ [Instr.mrcA32 0b1110#4 0#4, .mcrA32 0b1110#4 0#4],
      let s := st cfgFull (ctxAt .el3 true false false 0 0 true .high) 0#32 0#4 0#32
      s.admitsAccess i ∧ s.ctx.cp15sdisable2 = .high := by
  decide

/-- One instruction for each clause: 13, 15, a condition, an IT block (of condition always too), Debug state. -/
theorem witness_RefusedExactlyByRefusals :
    rtOf (.mrcT32 13#4) = 13#4 ∧ rtOf (.mcrA32 0b1110#4 15#4) = 15#4 ∧
      (14#4 ≠ 13#4 ∧ 14#4 ≠ 15#4 ∧ 0b1101#4 ≠ 0b1110#4) ∧
      ({ State.reset with itCond := some 0b1110#4 } : State).itCond = some 0b1110#4 ∧
      (rtOf (.mcrT32 12#4) ≠ 13#4 ∧ rtOf (.mcrT32 12#4) ≠ 15#4 ∧ condAdmitted (.mcrT32 12#4) State.reset = true ∧
        (qst cfgFull { resetCtx with debugState := true } 0).ctx.debugState = true) := by decide

/-- A reset and an `MCR`, each changing SDCR. -/
theorem witness_SdcrChangesOnlyByMcrAtEL3OrReset :
    (∃ t, step { State.reset with sdcr := 1#32, schedule := [.reset] } = .next t ∧ t.sdcr ≠ 1#32) ∧
      ∃ t, step { holding (.mcrA32 0b1110#4 0#4) with sdcr := 1#32 } = .next t ∧ t.sdcr ≠ 1#32 := by
  refine ⟨⟨_, rfl, ?_⟩, ⟨_, rfl, ?_⟩⟩ <;> decide

theorem witness_AccessCompletesOnlyAtEL3 :
    ∃ t, exec (.mcrT32 0#4) State.reset = .next t ∧ isWrite (.mcrT32 0#4) = true := ⟨_, rfl, rfl⟩

theorem witness_StepKeepsConfigAndInputs :
    (∃ t, step { State.reset with schedule := [.inputs (ctxAt .el1 false false false 0 0 true .low)] } = .next t) ∧
      ∃ t, step { State.reset with schedule := [.reset] } = .next t := ⟨⟨_, rfl⟩, ⟨_, rfl⟩⟩

theorem witness_StepKeepsInv :
    (holding (.mcrA32 0b1110#4 0#4)).Inv ∧ ∃ t, step (holding (.mcrA32 0b1110#4 0#4)) = .next t :=
  ⟨⟨by decide, by decide, fun _ v hv => (by cases hv), by decide, by decide⟩, ⟨_, rfl⟩⟩

/-- Two states that differ in SDCR and the registers. -/
theorem witness_SdcrDoesNotGovernItself :
    let s := st cfgFull resetCtx 0#32 0#4 0#32
    let u := st cfgFull resetCtx 0xFFFFFFFF#32 0#4 5#32
    s.cfg = u.cfg ∧ s.ctx = u.ctx ∧ s.itCond = u.itCond ∧ s.draws = u.draws ∧ s.sdcr ≠ u.sdcr := by decide

/-- P1: a write of R0, then (`k` = 0) a read into R1, at consecutive addresses. -/
def bootProgram : State :=
  { State.reset with
    mem := memWriteBytes [] 0#32 (encode (.mcrA32 0b1110#4 0#4) ++ encode (.mrcA32 0b1110#4 1#4))
    x := (Vector.replicate 15 0#32).set 0 0xFFFFFFFF#32 }

theorem witness_ReadReturnsTheLastWrite :
    ∃ s1 t u, bootProgram.runsInstr (.mcrA32 0b1110#4 0#4) ∧ isWrite (.mcrA32 0b1110#4 0#4) = true ∧
      step bootProgram = .next s1 ∧ runsTo 0 s1 t ∧ (∀ j, j < 0 → ∀ v, runsTo j s1 v → ¬ v.mayWriteSdcr) ∧
      t.runsInstr (.mrcA32 0b1110#4 1#4) ∧ isWrite (.mrcA32 0b1110#4 1#4) = false ∧ step t = .next u ∧
      u.readX 1#4 = 0x18BEC000#32 :=
  ⟨_, _, _, ⟨rfl, [0x33#8, 0x1F#8, 0x11#8, 0xEE#8].drop 4, by rfl⟩, rfl, rfl, rfl, by omega,
    ⟨rfl, [], by rfl⟩, rfl, rfl, by decide⟩

theorem witness_IndirectReadsSeeOnlyHeldValues : ∃ t, runsTo 1 (holding (.mcrA32 0b1110#4 0#4)) t := ⟨_, _, rfl, rfl⟩

theorem witness_ContextSynchronisationEmptiesStale :
    let e : EnclosingEffect := ⟨8#32, Vector.replicate 15 0#32, .a32, none, []⟩
    ({ State.reset with schedule := [.enclosing .isb e] } : State).nextEvent = .enclosing .isb e ∧
      .isb ∈ State.reset.cfg.contextSyncSteps ∧ .other 0 ∉ State.reset.cfg.contextSyncSteps := by decide

theorem witness_ResetSetsSdcrAndEmptiesStale :
    ({ State.reset with schedule := [.reset] } : State).nextEvent = .reset ∧
      State.reset.cfg.el3AArch32Capable = true := by decide

/-- Each clause of the Effective values: RES0; the clause of a PE without EL3; the field; no meaning, with the register
absent and with EL3 using AArch64. -/
theorem witness_EffectiveValueOfEachField :
    BitField.mtpme.isField (qst cfgMin resetCtx 0).cfg = false ∧
      (BitField.spme.isField cfgNoEL3 = true ∧ BitField.spme ∈ [BitField.epmad, .edad, .ste, .spme] ∧
        cfgNoEL3.haveEL3 = false ∧ resetCtx.scrNsEff = 0#1) ∧
      (BitField.ttrf.isField cfgFull = true ∧ BitField.ttrf ∉ [BitField.epmad, .edad, .ste, .spme]) ∧
      (BitField.edad.isField cfgFull = true ∧ cfgFull.haveEL3 = true ∧ cfgFull.el3AArch32Capable = true ∧
        resetCtx.el3AArch32 = true ∧ ({ resetCtx with el3AArch32 := false } : Ctx).el3AArch32 = false) ∧
      (BitField.edad.isField cfgNoEL3 = true ∧ ({ resetCtx with scrNsEff := 1#1 } : Ctx).scrNsEff = 1#1) := by decide

theorem witness_fieldsGovern : State.reset.fieldsGovern := by decide

theorem witness_TdccTrapsDccAccesses :
    let acc : SysRegAccess := ⟨.dbgdtrtxInt, true⟩
    let s : State := { qst cfgFull { resetCtx with monitorMode := false } 0x08000000#32 with
      schedule := [.guardedAccess acc] }
    s.fieldsGovern ∧ s.nextEvent = .guardedAccess acc ∧ s.cfg.featFGT = true ∧
      (∀ v, s.maySee v → v.getLsbD 27 = true) ∧ s.ctx.monitorMode = false ∧ acc.reg ∈ s.cfg.dccTrappedRegs ∧
      (s.ctx.debugState = true → acc.reg ∉ s.cfg.dccDebugExemptRegs) ∧ acc ∉ s.ctx.higherPriority := by
  refine ⟨by decide, rfl, rfl, ?_, rfl, by decide, by decide, by decide⟩
  rintro v (rfl | hv)
  · decide
  · cases hv

theorem witness_TtrfTrapsTraceFilterAccesses :
    ∀ r ∈ [RegName.htrfcr, .trfcr],
      let acc : SysRegAccess := ⟨r, false⟩
      let s : State := { qst cfgTRF { resetCtx with monitorMode := false, debugState := true } 0x00080000#32 with
        schedule := [.guardedAccess acc] }
      s.fieldsGovern ∧ s.nextEvent = .guardedAccess acc ∧ s.cfg.featTRF = true ∧ s.ctx.monitorMode = false ∧
        (acc.reg = .htrfcr ∨ acc.reg = .trfcr) ∧ acc ∉ s.ctx.higherPriority ∧
        s.stale = [] ∧ s.sdcr.getLsbD 19 = true := by
  decide

/-- One state for each way an access goes on: Monitor mode; a higher priority exception; the bit 0, with the other
field's bit 1; a feature absent; an exempt register in Debug state; and a register that neither field guards. -/
theorem witness_UntrappedAccessGoesOn :
    let x : Ctx := { resetCtx with monitorMode := false }
    let dcc : SysRegAccess := ⟨.dbgdtrtxInt, true⟩
    let trf : SysRegAccess := ⟨.trfcr, false⟩
    (∀ z ∈ [ (cfgFull, resetCtx, 0x08080000#32, dcc), (cfgFull, { x with higherPriority := [trf] }, 0x08080000#32, trf),
            (cfgFull, x, 0x00080000#32, dcc), (cfgFull, x, 0x08000000#32, trf),
            ({ cfgFull with featFGT := false }, x, 0x08080000#32, dcc),
            ({ cfgFull with featTRF := false }, x, 0x08080000#32, trf),
            (cfgFull, { x with debugState := true }, 0x08080000#32, dcc) ],
      let s : State := { qst z.1 z.2.1 z.2.2.1 with schedule := [.guardedAccess z.2.2.2] }
      s.nextEvent = .guardedAccess z.2.2.2 ∧ s.fieldsGovern ∧ s.stale = [] ∧
        ¬ (s.cfg.featFGT = true ∧ s.sdcr.getLsbD 27 = true ∧ s.ctx.monitorMode = false ∧
            z.2.2.2.reg ∈ s.cfg.dccTrappedRegs ∧
            ¬ (s.ctx.debugState = true ∧ z.2.2.2.reg ∈ s.cfg.dccDebugExemptRegs) ∧
            z.2.2.2 ∉ s.ctx.higherPriority) ∧
        ¬ (s.cfg.featTRF = true ∧ s.sdcr.getLsbD 19 = true ∧ s.ctx.monitorMode = false ∧
            (z.2.2.2.reg = .htrfcr ∨ z.2.2.2.reg = .trfcr) ∧ z.2.2.2 ∉ s.ctx.higherPriority)) ∧
      RegName.other 0 ∉ cfgFull.dccTrappedRegs ∧ RegName.other 0 ≠ .htrfcr ∧ RegName.other 0 ≠ .trfcr := by
  decide

/-- In the two ways the fields with a clause govern (Q57's state is the second). -/
theorem witness_clauseFieldsGovern :
    State.reset.clauseFieldsGovern ∧ (qst cfgNoEL3 resetCtx 0).clauseFieldsGovern := by decide

theorem witness_EdadForbidsDebuggerAccess :
    (qst cfgV82 resetCtx 0x00100000#32).clauseFieldsGovern ∧ cfgV82.featDebugv8p2 = true ∧
      (qst cfgFull resetCtx 0x00100000#32).clauseFieldsGovern ∧ cfgFull.featDebugv8p4 = true := by decide

/-- Q30's state, and Q29's, where nothing overrides. -/
theorem witness_EdadWithoutDebugv8p2LeavesOslarOpen :
    let s := qst { cfgMin with impdefEdadBlocksOslar := true } { resetCtx with authEdadOverride := true } 0x00100000#32
    let u := qst { cfgMin with impdefEdadBlocksOslar := true } resetCtx 0x00100000#32
    s.clauseFieldsGovern ∧ s.cfg.featDebugv8p4 = false ∧ s.cfg.featDebugv8p2 = false ∧ u.clauseFieldsGovern ∧
      u.cfg.featDebugv8p4 = false ∧ u.cfg.featDebugv8p2 = false ∧ u.ctx.authEdadOverride = false := by decide

/-- Each value of SPD in Secure state, with and without EL3. -/
theorem witness_SpdControlsEl3DebugExceptions :
    (∀ n, n < 4 → (qst cfgFull resetCtx (BitVec.ofNat 32 (n * 0x4000))).clauseFieldsGovern ∧
      (qst cfgFull resetCtx (BitVec.ofNat 32 (n * 0x4000))).ctx.secure = true ∧
      (qst cfgFull resetCtx (BitVec.ofNat 32 (n * 0x4000))).cfg.haveEL3 = true) ∧
      (qst cfgNoEL3 resetCtx 0).clauseFieldsGovern ∧ (qst cfgNoEL3 resetCtx 0).ctx.secure = true := by
  decide

theorem witness_SecureEL0FollowsEl3OrSuiden :
    (qst cfgFull { resetCtx with secure := false } 0).clauseFieldsGovern ∧
      (qst cfgFull resetCtx 0).clauseFieldsGovern ∧ (qst cfgFull resetCtx 0).ctx.secure = true := by decide

/-- EL3 using AArch64; the register absent with EL3 present; EL3 absent with `SCR.NS` 1, and with it 0, for a query of
each kind; and the two governing cases, with SPD's predicates in Non-secure state. -/
theorem witness_PredicatesMeanNothingOutsideTheirDomain :
    ((∀ f, Query.pmccntrStopped ≠ .effBit f) ∧ Query.pmccntrStopped ≠ .effSpd ∧
      (∀ f, Query.secureTraceProhibited ≠ .effBit f) ∧ Query.secureTraceProhibited ≠ .effSpd) ∧
      (qst cfgFull { resetCtx with el3AArch32 := false } 0).ctx.el3AArch32 = false ∧ cfgFull.haveEL3 = true ∧
      cfgA64only.el3AArch32Capable = false ∧ cfgA64only.haveEL3 = true ∧ cfgNoEL3.el3AArch32Capable = false ∧
      ({ resetCtx with scrNsEff := 1#1 } : Ctx).scrNsEff = 1#1 ∧
      Query.pmccntrStopped.readsNoClauseField = true ∧ Query.secureTraceProhibited.readsNoClauseField = false ∧
      State.reset.fieldsGovern ∧ (qst cfgNoEL3 resetCtx 0).clauseFieldsGovern ∧
      (qst cfgFull { resetCtx with secure := false } 0).fieldsGovern := by
  exact ⟨⟨fun f h => (by cases h), by decide, fun f h => (by cases h), by decide⟩, by decide⟩

theorem witness_Res0BitsHaveNoEffect :
    0xFFFFFFFF#32 &&& ~~~(res0Mask State.reset.cfg) = 0x18BEC000#32 &&& ~~~(res0Mask State.reset.cfg) := by decide

theorem witness_ReservedSpdActsAsLegacy :
    Query.el3DebugExceptionsEnabled ≠ .effSpd ∧ spdBits 0x00004000#32 = 0b01#2 := by decide

/-- A query that answers, and one that is refused. -/
theorem witness_QueryRecordsItsAnswer :
    ({ State.reset with schedule := [.query .effSpd] } : State).schedule = [.query .effSpd] ∧
      answer State.reset .effSpd = .ok (.effSpd (.value 0)) ∧
      answer (qst cfgA64only resetCtx 0) .secureTraceProhibited = .error .noMeaning := by decide

theorem witness_StoredValueIsIdempotent : spdBits 0x0000C000#32 ≠ 0b01#2 := by decide

theorem witness_DecodeOfEncode : (Instr.mrcA32 0b1110#4 15#4).wellFormed = true := by decide

theorem witness_EncodeOfDecode :
    decode .a32 [0x33#8, 0x5F#8, 0x01#8, 0xEE#8, 0x00#8] = .ok (.mcrA32 0b1110#4 5#4, [0x00#8]) := by decide

/-- A line for SDCR with `<c>` omitted; one with another condition that stands for an instruction; one without
`<opc2>`; one for another tuple. -/
theorem witness_AssemblerLinesRunOnlyUnconditionally :
    ((line true none none (some 1)).tuple = sdcrTuple ∧ (line true none none (some 1)).condition = 0b1110#4) ∧
      ((line false (some 0#4) none (some 1)).condition ≠ 0b1110#4 ∧
        (line false (some 0#4) none (some 1)).instr .a32 = .ok (.mcrA32 0#4 3#4)) ∧
      (line true none none none).opc2 = none ∧ (line true none none (some 2)).tuple ≠ sdcrTuple := by decide

theorem witness_StepRunsTheDecodedInstruction :
    let s := holding (.mrcT32 1#4)
    s.nextEvent = .instruction ∧ memRead s.mem s.pc.toNat = some 0x11#8 ∧
      memRead s.mem (s.pc + 1#32).toNat = some 0xEE#8 ∧ memRead s.mem (s.pc + 2#32).toNat = some 0x33#8 ∧
      memRead s.mem (s.pc + 3#32).toNat = some 0x1F#8 ∧ (Instr.mrcT32 1#4).wellFormed = true ∧
      decode s.iset [0x11#8, 0xEE#8, 0x33#8, 0x1F#8] = .ok (.mrcT32 1#4, []) := by decide

/-- At the top of the address space, where the instruction's bytes wrap. -/
theorem witness_PlacedInstructionRuns :
    let s : State := { State.reset with pc := 0xFFFFFFFE#32, iset := .t32 }
    (Instr.mcrT32 1#4).wellFormed = true ∧ s.nextEvent = .instruction ∧ s.iset = (Instr.mcrT32 1#4).iset := by decide

/-- A memory that holds bytes from address 0 on, read in an instruction set. -/
def bytesAt0 (iset : ISet) (bytes : List Byte) : State :=
  { State.reset with mem := memWriteBytes [] 0#32 bytes, iset := iset }

/-- What `NoOtherInstructionRuns` reads: the byte `n` places after the program counter. -/
def byteAt (s : State) (n : Word) : Option Byte := memRead s.mem (s.pc + n).toNat

/-- No byte; one; a narrow and a wide T32 halfword alone; E11 and E10 in A32; a narrow T32 halfword with more after it. -/
theorem witness_NoOtherInstructionRuns :
    State.reset.nextEvent = .instruction ∧ byteAt State.reset 0#32 = none ∧
      (byteAt (bytesAt0 .a32 [0x33#8]) 0#32 = some 0x33#8 ∧ byteAt (bytesAt0 .a32 [0x33#8]) 1#32 = none) ∧
      (∀ b ∈ [0xBF#8, 0xEE#8], byteAt (bytesAt0 .t32 [0x11#8, b]) 1#32 = some b ∧
        byteAt (bytesAt0 .t32 [0x11#8, b]) 2#32 = none) ∧
      (0xBF#8).extractLsb' 3 5 ∉ [0b11101#5, 0b11110#5, 0b11111#5] ∧ (0xEE#8).extractLsb' 3 5 = 0b11101#5 ∧
      (let s := bytesAt0 .a32 [0x13#8, 0x0F#8, 0x11#8, 0xEE#8]
       [0#32, 1#32, 2#32, 3#32].map (byteAt s) = [some 0x13#8, some 0x0F#8, some 0x11#8, some 0xEE#8] ∧
         bytesWord .a32 0x13#8 0x0F#8 0x11#8 0xEE#8 &&& 0x0FFF0FFF#32 = 0x0E110F13#32) ∧
      (let s := bytesAt0 .a32 [0x33#8, 0x0F#8, 0x11#8, 0xFE#8]
       [0#32, 1#32, 2#32, 3#32].map (byteAt s) = [some 0x33#8, some 0x0F#8, some 0x11#8, some 0xFE#8] ∧
         (bytesWord .a32 0x33#8 0x0F#8 0x11#8 0xFE#8).extractLsb' 28 4 = 0b1111#4) ∧
      (let s := bytesAt0 .t32 [0x00#8, 0xBF#8, 0x33#8, 0x0F#8]
       [0#32, 1#32, 2#32, 3#32].map (byteAt s) = [some 0x00#8, some 0xBF#8, some 0x33#8, some 0x0F#8] ∧
         bytesWord .t32 0x00#8 0xBF#8 0x33#8 0x0F#8 &&& 0xFFFF0FFF#32 = 0xBF000F33#32) := by decide

end Sys2Proof.Tests
end

section
/-!
The control predicates of SDCR: what each answers where its field governs the PE, as a formula on one value an
indirect read may see (R18 to R41), and when an access that TDCC or TTRF may guard is trapped (R86).
-/
namespace Sys2Proof.Proofs
open Sys2Proof.Machine

/-! The fields with an Effective-value clause, in both ways they govern (R42, R46). -/

/-- Where `NoEL3_Secure` holds, the Effective value of a field with a clause is 1 (R42). -/
theorem effBit_of_noEL3 {s : State} (he : s.cfg.haveEL3 = false) (hn : s.ctx.scrNsEff = 0#1) (v : Word)
    {f : BitField} (hf : f.hasEffClause = true) :
    effBit s.cfg s.ctx v f = if f.isField s.cfg then .value 1#1 else .noControl := by
  cases hfield : f.isField s.cfg <;> simp [effBit, noEL3Secure, he, hn, hf, hfield]

theorem clauseBit_is_one {s : State} (h : s.clauseFieldsGovern) (v : Word) {f : BitField}
    (hf : f.hasEffClause = true) :
    (effBit s.cfg s.ctx v f).is 1#1 = (f.isField s.cfg && (!s.cfg.haveEL3 || v.getLsbD f.pos)) := by
  rcases h with hg | ⟨he, hn⟩
  · simp [effBit_is_one hg, hg.1]
  · rw [effBit_of_noEL3 he hn v hf, he]
    cases f.isField s.cfg <;> rfl

theorem clauseBit_is_zero {s : State} (h : s.clauseFieldsGovern) (v : Word) {f : BitField}
    (hf : f.hasEffClause = true) :
    (effBit s.cfg s.ctx v f).is 0#1 = (f.isField s.cfg && !(!s.cfg.haveEL3 || v.getLsbD f.pos)) := by
  rcases h with hg | ⟨he, hn⟩
  · simp [effBit_is_zero hg, hg.1]
  · rw [effBit_of_noEL3 he hn v hf, he]
    cases f.isField s.cfg <;> rfl

/-- SPD has an Effective-value clause too: `0b11` without EL3 (R42). -/
theorem effSpd_of_clauseFieldsGovern {s : State} (h : s.clauseFieldsGovern) (v : Word) :
    effSpd s.cfg s.ctx v = .value (if s.cfg.haveEL3 then spdBits v else 0b11#2) := by
  rcases h with hg | ⟨he, hn⟩
  · simp [effSpd_of_fieldsGovern hg, hg.1]
  · simp [effSpd, noEL3Secure, he, hn]

theorem inDomain_of_clauseFieldsGovern {s : State} (h : s.clauseFieldsGovern) :
    inDomain s.cfg s.ctx true = true := by
  rcases h with hg | ⟨he, hn⟩
  · exact inDomain_of_fieldsGovern hg true
  · simp [inDomain, noEL3Secure, he, hn]

/-! Inside the domain a predicate's answer is its value (R46). -/

theorem inDomainOnly_of_fieldsGovern {s : State} (h : s.fieldsGovern) (hasClause b : Bool) :
    inDomainOnly s hasClause b = .ok (.truth b) := by
  simp [inDomainOnly, inDomain_of_fieldsGovern h]

theorem inDomainOnly_of_clauseFieldsGovern {s : State} (h : s.clauseFieldsGovern) (b : Bool) :
    inDomainOnly s true b = .ok (.truth b) := by
  simp [inDomainOnly, inDomain_of_clauseFieldsGovern h]

theorem inSecureOnly_of_secure {s : State} (h : s.clauseFieldsGovern) (hs : s.ctx.secure = true) (b : Bool) :
    inSecureOnly s b = .ok (.truth b) := by
  simp [inSecureOnly, inDomain_of_clauseFieldsGovern h, hs]

/-! MTPME, TDCC, SCCD and TTRF, the fields without a clause. -/

theorem mtpmeActsAs0_of_fieldsGovern {s : State} (h : s.fieldsGovern) (v : Word) :
    mtpmeActsAs0 s.cfg s.ctx v =
      (s.cfg.featMTPMU && (!v.getLsbD 28 || (s.cfg.impdefMtpmeAffinity && s.ctx.otherPeMtpmuDisabled))) := by
  rw [mtpmeActsAs0, effBit_is_zero h]
  cases hf : s.cfg.featMTPMU <;> simp [BitField.isField, BitField.pos, affinityForces0, hf]

theorem effPmevtyperMT_of_fieldsGovern {s : State} (h : s.fieldsGovern) (v : Word) (n : Nat) :
    effPmevtyperMT s.cfg s.ctx v n =
      if s.cfg.featMTPMU = true ∧
          (v.getLsbD 28 = false ∨ (s.cfg.impdefMtpmeAffinity = true ∧ s.ctx.otherPeMtpmuDisabled = true)) then 0#1
      else if n ∈ s.ctx.pmevtyperMT then 1#1 else 0#1 := by
  simp [effPmevtyperMT, mtpmeActsAs0_of_fieldsGovern h, Ctx.mtBit]

theorem tdccTraps_of_fieldsGovern {s : State} (h : s.fieldsGovern) (v : Word) (acc : SysRegAccess) :
    tdccTraps s.cfg s.ctx v acc =
      (s.cfg.featFGT && v.getLsbD 27 && !s.ctx.monitorMode && decide (acc.reg ∈ s.cfg.dccTrappedRegs) &&
        !(s.ctx.debugState && decide (acc.reg ∈ s.cfg.dccDebugExemptRegs)) &&
        !decide (acc ∈ s.ctx.higherPriority)) := by
  rw [tdccTraps, effBit_is_one h]
  cases hf : s.cfg.featFGT <;> simp [BitField.isField, BitField.pos, inTdccSet, hf, Bool.and_assoc]

theorem isTraceFilterReg_eq_decide (r : RegName) :
    isTraceFilterReg r = decide (r = .htrfcr ∨ r = .trfcr) := by
  rw [Bool.eq_iff_iff]
  simp [isTraceFilterReg]

theorem ttrfTraps_of_fieldsGovern {s : State} (h : s.fieldsGovern) (v : Word) (acc : SysRegAccess) :
    ttrfTraps s.cfg s.ctx v acc =
      (s.cfg.featTRF && v.getLsbD 19 && !s.ctx.monitorMode && decide (acc.reg = .htrfcr ∨ acc.reg = .trfcr) &&
        !decide (acc ∈ s.ctx.higherPriority)) := by
  rw [ttrfTraps, effBit_is_one h]
  cases hf : s.cfg.featTRF <;> simp [BitField.isField, BitField.pos, isTraceFilterReg_eq_decide, hf]

theorem pmccntrProhibitedBySccd_of_fieldsGovern {s : State} (h : s.fieldsGovern) (v : Word) :
    pmccntrProhibitedBySccd s.cfg s.ctx v =
      (s.cfg.featPMUv3p5 && v.getLsbD 23 && (s.ctx.secure || decide (s.ctx.el = .el3))) := by
  rw [pmccntrProhibitedBySccd, effBit_is_one h]
  have hel : (s.ctx.el == .el3) = decide (s.ctx.el = .el3) := rfl
  cases hf : s.cfg.featPMUv3p5 <;> simp [BitField.isField, BitField.pos, hf, hel]

/-! EPMAD, EDAD, SPME and SPD, the fields with a clause. -/

/-- Which description of EPMAD applies where the field exists (R26). -/
theorem epmadVariant_of_featPMUv3 {c : Config} (h : c.featPMUv3 = true) :
    epmadVariant c = if c.featDebugv8p4 then .a else .b := by
  simp [epmadVariant, h]

theorem extPmuForbidden_of_clauseFieldsGovern {s : State} (h : s.clauseFieldsGovern) (v : Word) (ns : Bool) :
    extPmuForbidden s.cfg s.ctx v ns =
      (s.cfg.featPMUv3 && s.cfg.pmuExtDebugIf && (!s.cfg.haveEL3 || v.getLsbD 21) &&
        (if s.cfg.featDebugv8p4 then ns else !s.ctx.authEpmadOverride)) := by
  cases hfield : s.cfg.featPMUv3 && s.cfg.pmuExtDebugIf with
  | false => simp [extPmuForbidden, hfield]
  | true =>
    have hp : s.cfg.featPMUv3 = true := (Bool.and_eq_true_iff.mp hfield).1
    have hone := clauseBit_is_one h v (f := .epmad) rfl
    cases hd : s.cfg.featDebugv8p4 <;>
      simp [extPmuForbidden, epmadVariant_of_featPMUv3 hp, hone, BitField.isField, BitField.pos, hfield, hd,
        Bool.and_comm]

theorem guarded_eq_decide (cls : DebugClass) :
    cls.guarded = decide (cls = .breakpoint ∨ cls = .watchpoint ∨ cls = .oslarEL1) := by
  cases cls <;> rfl

/-- Which of the first two descriptions of EDAD applies (R30). -/
theorem edadVariant_of_debugv8p2 {c : Config} (h : c.featDebugv8p4 = true ∨ c.featDebugv8p2 = true) :
    edadVariant c = if c.featDebugv8p4 then .a else .b := by
  cases h4 : c.featDebugv8p4 <;> simp_all [edadVariant]

theorem extDebugForbidden_of_debugv8p2 {s : State} (h : s.clauseFieldsGovern)
    (hd : s.cfg.featDebugv8p4 = true ∨ s.cfg.featDebugv8p2 = true) (v : Word) (drawn : Bool) (cls : DebugClass)
    (ns : Bool) :
    extDebugForbidden s.cfg s.ctx v drawn cls ns =
      (decide (cls = .breakpoint ∨ cls = .watchpoint ∨ cls = .oslarEL1) && (!s.cfg.haveEL3 || v.getLsbD 20) &&
        (if s.cfg.featDebugv8p4 then ns else !s.ctx.authEdadOverride)) := by
  have hone : (effBit s.cfg s.ctx v .edad).is 1#1 = (!s.cfg.haveEL3 || v.getLsbD 20) :=
    clauseBit_is_one h v (f := .edad) rfl
  rw [extDebugForbidden, edadVariant_of_debugv8p2 hd, hone, ← guarded_eq_decide]
  cases s.cfg.featDebugv8p4 with
  | true => exact Bool.and_right_comm ..
  | false => rfl

/-- Which description of SPME applies where the field exists (R37). -/
theorem spmeVariant_of_featPMUv3 {c : Config} (h : c.featPMUv3 = true) :
    spmeVariant c = if c.featDebugv8p2 then .a else .b := by
  simp [spmeVariant, h]

/-- Without the Performance Monitors Extension bit 17 is RES0 and prohibits nothing (R37). -/
theorem eventCountingProhibited_of_not_featPMUv3 {c : Config} (h : c.featPMUv3 = false) (x : Ctx) (v : Word) :
    eventCountingProhibited c x v = false := by
  simp [eventCountingProhibited, spmeVariant, h]

theorem eventCountingProhibited_of_clauseFieldsGovern {s : State} (h : s.clauseFieldsGovern) (v : Word) :
    eventCountingProhibited s.cfg s.ctx v =
      (s.cfg.featPMUv3 && s.ctx.secure && !(!s.cfg.haveEL3 || v.getLsbD 17) &&
        (s.cfg.featDebugv8p2 || !s.ctx.extSecNoninvasiveDbgEn)) := by
  cases hp : s.cfg.featPMUv3 with
  | false => simp [eventCountingProhibited_of_not_featPMUv3 hp]
  | true =>
    have hzero := clauseBit_is_zero h v (f := .spme) rfl
    cases hd : s.cfg.featDebugv8p2 <;>
      simp [eventCountingProhibited, spmeVariant_of_featPMUv3 hp, hzero, BitField.isField, BitField.pos, hp, hd]

theorem pmccntrDisabledBySpme_eq (c : Config) (x : Ctx) (v : Word) :
    pmccntrDisabledBySpme c x v = (eventCountingProhibited c x v && decide (x.pmcrDP = 1#1)) := rfl

/-- SPD's decision on its Effective value; the reserved `0b01` falls under the last arm with `0b00` (R40). -/
theorem el3DebugExceptionsEnabled_of_effSpd {c : Config} {x : Ctx} {v : Word} {w : BitVec 2}
    (h : effSpd c x v = .value w) :
    el3DebugExceptionsEnabled c x v =
      if w = 0b10#2 then false else if w = 0b11#2 then true else x.authEl3DebugEnable := by
  simp [el3DebugExceptionsEnabled, h]

/-! An access that TDCC or TTRF may guard. -/

theorem guardsReg_of_tdccTraps {c : Config} {x : Ctx} {v : Word} {acc : SysRegAccess}
    (h : tdccTraps c x v acc = true) : guardsReg c acc.reg = true := by
  simp_all [tdccTraps, inTdccSet, guardsReg]

theorem guardsReg_of_ttrfTraps {c : Config} {x : Ctx} {v : Word} {acc : SysRegAccess}
    (h : ttrfTraps c x v acc = true) : guardsReg c acc.reg = true := by
  simp_all [ttrfTraps, guardsReg]

/-- Where the fields govern, an access raises MonitorTrap exactly when one of the two fields traps it on the value its
indirect read sees (R21, R34, R86). -/
theorem guardedAccess_raises_iff {s : State} (h : s.fieldsGovern) (acc : SysRegAccess) :
    guardedAccess acc s = .fault (.monitorTrap acc) ↔
      tdccTraps s.cfg s.ctx (s.seen s.draws) acc = true ∨
        ttrfTraps s.cfg s.ctx (s.seen (s.draws + 1)) acc = true := by
  unfold guardedAccess
  rw [inDomain_of_fieldsGovern h]
  cases hr : guardsReg s.cfg acc.reg with
  | false =>
    have hno : ¬ guardsReg s.cfg acc.reg = true := by simp [hr]
    simp [mt guardsReg_of_tdccTraps hno, mt guardsReg_of_ttrfTraps hno]
  | true => simp [raise, or_iff_not_imp_left]

theorem step_guardedAccess {s : State} {acc : SysRegAccess} (h : s.nextEvent = .guardedAccess acc) :
    step s = guardedAccess acc s.popEvent := by
  simp [step, h, runEvent]

/-- A step that is an access one of the fields traps raises MonitorTrap (R86). -/
theorem step_raises_of_traps {s : State} {acc : SysRegAccess} (h : s.fieldsGovern)
    (he : s.nextEvent = .guardedAccess acc)
    (ht : tdccTraps s.cfg s.ctx (s.seen s.draws) acc = true ∨
      ttrfTraps s.cfg s.ctx (s.seen (s.draws + 1)) acc = true) :
    step s = .fault (.monitorTrap acc) :=
  (step_guardedAccess he).trans ((guardedAccess_raises_iff (s := s.popEvent) h acc).2 ht)

/-! The obligations. -/

/-- Settles O23: the answer is the predicate on the value drawn, and a bit that is 1 in every visible value is 1 in the
value the access draws. -/
theorem tdccTrapsDccAccesses : Obligations.TdccTrapsDccAccesses := by
  intro s acc h
  refine ⟨⟨s.seen s.draws, seen_maySee s _, ?_⟩, ?_⟩
  · rw [answer, inDomainOnly_of_fieldsGovern h, tdccTraps_of_fieldsGovern h]
  · intro he hfgt hbit hmon hset hexempt hprio
    have hseen := hbit _ (seen_maySee s s.draws)
    refine step_raises_of_traps h he (.inl ?_)
    rw [tdccTraps_of_fieldsGovern h]
    cases hd : s.ctx.debugState with
    | false => simp [hfgt, hseen, hmon, hset, hprio]
    | true => simp [hfgt, hseen, hmon, hset, hprio, hexempt hd]

/-- Settles O24, as O23: the access draws for TTRF after it has drawn for TDCC. -/
theorem ttrfTrapsTraceFilterAccesses : Obligations.TtrfTrapsTraceFilterAccesses := by
  intro s acc h
  refine ⟨⟨s.seen s.draws, seen_maySee s _, ?_⟩, ?_⟩
  · rw [answer, inDomainOnly_of_fieldsGovern h, ttrfTraps_of_fieldsGovern h]
  · intro he htrf hbit hmon hreg hprio
    have hseen := hbit _ (seen_maySee s (s.draws + 1))
    refine step_raises_of_traps h he (.inr ?_)
    simp [ttrfTraps_of_fieldsGovern h, htrf, hseen, hmon, hreg, hprio]

/-- Settles O27, by the description of EPMAD that applies (R26). -/
theorem epmadForbidsDebuggerPmuAccess : Obligations.EpmadForbidsDebuggerPmuAccess := by
  intro s ns h
  refine ⟨s.seen s.draws, seen_maySee s _, ?_⟩
  rw [answer, inDomainOnly_of_clauseFieldsGovern h, extPmuForbidden_of_clauseFieldsGovern h]

/-- Settles O28, by the description of EDAD that applies (R30). -/
theorem edadForbidsDebuggerAccess : Obligations.EdadForbidsDebuggerAccess := by
  intro s cls ns h hd
  refine ⟨s.seen s.draws, seen_maySee s _, ?_⟩
  rw [answer, inDomainOnly_of_clauseFieldsGovern h, extDebugForbidden_of_debugv8p2 h hd]

/-- Settles O31, by the description of SPME that applies (R37). -/
theorem spmeProhibitsSecureCounting : Obligations.SpmeProhibitsSecureCounting := by
  intro s h
  refine ⟨⟨s.seen s.draws, seen_maySee s _, ?_⟩, ⟨s.seen s.draws, seen_maySee s _, ?_⟩⟩
  · rw [answer, inDomainOnly_of_clauseFieldsGovern h, eventCountingProhibited_of_clauseFieldsGovern h]
  · rw [answer, inDomainOnly_of_clauseFieldsGovern h, pmccntrDisabledBySpme_eq,
      eventCountingProhibited_of_clauseFieldsGovern h]

/-- Settles O33: SPD's decision on its Effective value, which is `0b11` without EL3. -/
theorem spdControlsEl3DebugExceptions : Obligations.SpdControlsEl3DebugExceptions := by
  intro s h hs
  have heq := el3DebugExceptionsEnabled_of_effSpd (effSpd_of_clauseFieldsGovern h (s.seen s.draws))
  refine ⟨s.seen s.draws, _, seen_maySee s _, inSecureOnly_of_secure h hs _, ?_, ?_, ?_, ?_⟩ <;> rw [heq]
  · rintro he (hv | hv) <;> simp [spdBits, he, hv]
  · intro he hv
    simp [spdBits, he, hv]
  · intro he hv
    simp [spdBits, he, hv]
  · intro he
    simp [he]

/-- Settles O22, by `MTPME_acts_as_0` on the value drawn. -/
theorem mtpmeMasksTheMtBit : Obligations.MtpmeMasksTheMtBit := by
  intro s n h
  refine ⟨s.seen s.draws, seen_maySee s _, ?_⟩
  rw [answer, if_pos (inDomain_of_fieldsGovern h false), effPmevtyperMT_of_fieldsGovern h]

/-- Settles O26: the event counters' predicate reads bit 17 only, which flipping SCCD leaves as it is. -/
theorem sccdStopsTheCycleCounter : Obligations.SccdStopsTheCycleCounter := by
  intro s h
  refine ⟨⟨s.seen s.draws, seen_maySee s _, ?_⟩, fun v => ?_⟩
  · rw [answer, inDomainOnly_of_fieldsGovern h, pmccntrProhibitedBySccd_of_fieldsGovern h]
  · have hbit : (v ^^^ 0x00800000#32).getLsbD 17 = v.getLsbD 17 := by simp
    rw [eventCountingProhibited_of_clauseFieldsGovern (.inl h),
      eventCountingProhibited_of_clauseFieldsGovern (.inl h), hbit]

end Sys2Proof.Proofs
end

section
/-!
How an access to the present register ends by the Exception level: the fault of the privilege check below EL3, and
past every check at EL3 (R74, R78).
-/
namespace Sys2Proof.Proofs
open Sys2Proof.Machine

/-- With no refusal and the register present, what the privilege check raises is what the instruction ends in. -/
theorem exec_fault_of_accessCheck {s : State} {i : Instr} {f : Fault} (hi : s.notRefused i)
    (hp : s.cfg.el3AArch32Capable = true) (hf : accessCheck s.ctx = some f) : exec i s = .fault f := by
  obtain ⟨t, ht⟩ := exec_eq_sdcrAccess i s
  have hrefusals := (notRefused_iff s i).1 hi
  have hpresence := (presenceCheck_none_iff s).2 hp
  rw [ht]
  simp [sdcrAccess, hrefusals, hpresence, hf, raise]

/-- Past the shared checks only a write under a high `CP15SDISABLE2` does not complete (R78). -/
theorem exec_of_admitsAccess {s : State} {i : Instr} (h : s.admitsAccess i) :
    ∃ t, exec i s = if isWrite i = true ∧ s.ctx.cp15sdisable2 = .high then .fault .undefined else .next t := by
  obtain ⟨t, ht⟩ := exec_eq_sdcrAccess i s
  exact ⟨t, ht.trans (sdcrAccess_of_passes ((admitsAccess_iff s i).1 h) _)⟩

/-- The EL1 arms with each guard as a proposition (R74 arms 1 to 5). -/
theorem accessCheckEL1_eq (c : Ctx) :
    accessCheckEL1 c =
      if c.el2Enabled = true ∧ c.el2AArch32 = false ∧ c.hstrEL2T1 = 1#1 then .sysAccessTrapA64 .el2 0x03
      else if c.el2Enabled = true ∧ c.el2AArch32 = true ∧ c.hstrT1 = 1#1 then .hypTrap 0x03
      else if c.el2Enabled = true ∧ c.el2AArch32 = false ∧ c.secure = true then .sysAccessTrapA64 .el2 0x03
      else if c.el3AArch32 = false ∧ c.secure = true then .sysAccessTrapA64 .el3 0x03
      else .undefined := by
  simp [accessCheckEL1, hstrEL2Traps, hstrTraps, accessTrapCode, and_assoc]

/-- Settles O6: the privilege check raises at EL0, EL1 and EL2, and passes at EL3. -/
theorem privilegeCheckArms : Obligations.PrivilegeCheckArms := by
  intro s i hi hp
  refine ⟨fun hel => ?el0, fun hel => ?el1, fun hel => ?el2, fun hel hlow => ?el3⟩
  case el0 => exact exec_fault_of_accessCheck hi hp (by simp [accessCheck, hel])
  case el1 =>
    rw [← accessCheckEL1_eq]
    exact exec_fault_of_accessCheck hi hp (by simp [accessCheck, hel])
  case el2 => exact exec_fault_of_accessCheck hi hp (by simp [accessCheck, hel])
  case el3 =>
    obtain ⟨t, ht⟩ := exec_of_admitsAccess ⟨hi, hp, hel⟩
    have hnotStopped : ¬ (isWrite i = true ∧ s.ctx.cp15sdisable2 = .high) := by
      rcases hlow with hread | hsignal
      · simp [hread]
      · simp [hsignal]
    exact ⟨t, ht.trans (if_neg hnotStopped)⟩

end Sys2Proof.Proofs
end

section
/-!
The layout of SDCR bit by bit (R14, R16) and the value a write stores (R79).
-/
namespace Sys2Proof.Proofs
open Sys2Proof.Machine

theorem maskIf_getLsbD (b : Bool) (m : Word) (n : Nat) : (maskIf b m).getLsbD n = (b && m.getLsbD n) := by
  cases b <;> simp [maskIf]

/-- Settles O39, bit by bit. -/
theorem res0MaskFollowsTheLayout : Obligations.Res0MaskFollowsTheLayout := by
  intro c n hn
  simp only [res0Mask, alwaysRes0, BitVec.getLsbD_or, maskIf_getLsbD]
  interval_cases n <;> simp

/-- A bit that holds a field on this chip is not RES0. -/
theorem res0Mask_pos_of_isField {c : Config} {f : BitField} (h : f.isField c = true) :
    (res0Mask c).getLsbD f.pos = false := by
  rw [res0MaskFollowsTheLayout c f.pos (by cases f <;> decide)]
  cases f <;> simp_all [BitField.isField, BitField.pos]

theorem spdBits_eq_of_bits {v w : Word} (h14 : v.getLsbD 14 = w.getLsbD 14) (h15 : v.getLsbD 15 = w.getLsbD 15) :
    spdBits v = spdBits w := by
  unfold spdBits
  ext n hn
  interval_cases n <;> simpa

theorem spdBits_keptBits (c : Config) (v : Word) : spdBits (keptBits c v) = spdBits v := by
  have h14 := res0MaskFollowsTheLayout c 14 (by decide)
  have h15 := res0MaskFollowsTheLayout c 15 (by decide)
  apply spdBits_eq_of_bits <;> simp_all [keptBits]

theorem keptBits_keptBits (c : Config) (v : Word) : keptBits c (keptBits c v) = keptBits c v := by
  simp [keptBits, BitVec.and_assoc]

theorem keptBits_and (c : Config) (v m : Word) : keptBits c (v &&& m) = keptBits c v &&& m := by
  simp [keptBits, BitVec.and_assoc, BitVec.and_comm m]

/-- Writing SPD's own value leaves a word as it is. -/
theorem withSpd_self {v : Word} {spd : BitVec 2} (h : spdBits v = spd) : withSpd v spd = v := by
  subst h
  unfold withSpd spdBits
  ext n hn
  interval_cases n <;> simp

theorem withSpd_zero (v : Word) : withSpd v 0b00#2 = v &&& 0xFFFF3FFF#32 := by
  simp [withSpd]

theorem spdBits_and_clear (v : Word) : spdBits (v &&& 0xFFFF3FFF#32) = 0b00#2 := by
  unfold spdBits
  ext n hn
  interval_cases n <;> simp

/-- The stored value is the kept bits, with SPD cleared when it is the reserved value and the draw does not keep it
(R79, D12). -/
theorem storedValue_eq (c : Config) (k : Bool) (v : Word) :
    storedValue c k v = if spdBits v = 0b01#2 ∧ k = false then keptBits c v &&& 0xFFFF3FFF#32 else keptBits c v := by
  rw [storedValue, spdBits_keptBits]
  by_cases h : spdBits v = 0b01#2
  · have hk : spdBits (keptBits c v) = 0b01#2 := (spdBits_keptBits c v).trans h
    cases k <;> simp [h, withSpd_zero, withSpd_self hk]
  · simp [h]

/-- Settles O40, by whether the first store cleared the reserved SPD value: then nothing reserved is left to clear, and
otherwise the first store only keeps bits that are kept again. -/
theorem storedValueIsIdempotent : Obligations.StoredValueIsIdempotent := by
  intro c j k v
  have hsecond : storedValue c k (keptBits c v) = storedValue c k v := by
    simp [storedValue_eq, spdBits_keptBits, keptBits_keptBits]
  by_cases hclear : spdBits v = 0b01#2 ∧ j = false
  · have hfirst : storedValue c j v = keptBits c v &&& 0xFFFF3FFF#32 := by rw [storedValue_eq, if_pos hclear]
    have hsame : storedValue c k (storedValue c j v) = storedValue c j v := by
      rw [hfirst, storedValue_eq, spdBits_and_clear, keptBits_and, keptBits_keptBits]
      simp
    exact ⟨⟨j, hsame⟩, fun _ => hsame⟩
  · have hfirst : storedValue c j v = keptBits c v := by rw [storedValue_eq, if_neg hclear]
    refine ⟨⟨k, by rw [hfirst, hsecond]⟩, fun hspd => ?_⟩
    rw [hfirst, hsecond, storedValue_eq, if_neg (fun h => hspd h.1)]

/-- A kept bit other than the low bit of SPD is stored. -/
theorem storedValue_getLsbD (c : Config) (k : Bool) (v : Word) {n : Nat} (hn : n < 32) (h14 : n ≠ 14) :
    (storedValue c k v).getLsbD n = (keptBits c v).getLsbD n := by
  rw [storedValue_eq]
  split
  · rename_i hclear
    have h15 : (keptBits c v).getLsbD 15 = false := by
      have hspd := congrArg (fun b => b.getLsbD 1) ((spdBits_keptBits c v).trans hclear.1)
      simpa [spdBits] using hspd
    interval_cases n <;> simp_all
  · rfl

theorem keptBits_and_fixedZero (c : Config) (v : Word) : keptBits c v &&& fixedZero c = 0#32 := by
  ext n hn
  simp only [keptBits, fixedZero, BitVec.getElem_and, BitVec.getElem_or, BitVec.getElem_not, BitVec.getElem_zero]
  cases (res0Mask c)[n] <;> cases c.res0WritableMask[n] <;> simp

/-- A write leaves every RES0 bit that is fixed at 0 at 0 (R16, R79). -/
theorem storedValue_and_fixedZero (c : Config) (k : Bool) (v : Word) : storedValue c k v &&& fixedZero c = 0#32 := by
  rw [storedValue_eq]
  split
  · rw [BitVec.and_assoc, BitVec.and_comm 0xFFFF3FFF#32, ← BitVec.and_assoc, keptBits_and_fixedZero, BitVec.zero_and]
  · exact keptBits_and_fixedZero c v

end Sys2Proof.Proofs
end

section
/-!
Runs: what a step leaves of SDCR and `Stale`, and what follows along every run (R43, R53, R59).
-/
namespace Sys2Proof.Proofs
open Sys2Proof.Machine

/-! One step. -/

theorem admitsAccess_popEvent (s : State) (i : Instr) : s.popEvent.admitsAccess i ↔ s.admitsAccess i := by
  cases i <;> exact Iff.rfl

theorem step_of_runsInstr {s : State} {i : Instr} (h : s.runsInstr i) : step s = exec i s.popEvent := by
  obtain ⟨hn, rest, hd⟩ := h
  have hpop : decode s.popEvent.iset s.popEvent.nextBytes = .ok (i, rest) := hd
  rw [step, hn, runEvent, runInstruction, hpop]

/-- A completed access writes none of the state that belongs to the enclosing machine or to the chip. -/
theorem exec_next_frame {i : Instr} {s t : State} (h : exec i s = .next t) :
    t.cfg = s.cfg ∧ t.ctx = s.ctx ∧ t.iset = s.iset ∧ t.itCond = s.itCond ∧ t.mem = s.mem ∧
      t.schedule = s.schedule ∧ t.lastAnswer = s.lastAnswer := by
  obtain ⟨_, ⟨_, rfl⟩ | ⟨_, _, rfl⟩⟩ := exec_next h <;> simp

/-- What a step does to SDCR and `Stale`: an `MCR` stores, a reset sets both, any other step leaves SDCR and at most
empties `Stale`. -/
theorem step_sdcr_stale {s t : State} (h : step s = .next t) :
    (∃ i, s.runsInstr i ∧ isWrite i = true ∧ s.admitsAccess i ∧ s.ctx.cp15sdisable2 = .low ∧
      t.sdcr = storedValue s.cfg (Config.drawSpdKept s.draws) (s.readX (rtOf i)) ∧
      t.stale = staleInsert s.sdcr s.stale) ∨
    (s.nextEvent = .reset ∧ present s.cfg = true ∧ t.sdcr = s.cfg.sdcrReset ∧ t.stale = []) ∨
    (t.sdcr = s.sdcr ∧ (t.stale = s.stale ∨ t.stale = [])) := by
  rcases step_next h with ⟨hn, i, rest, hd, he⟩ | ⟨k, e, _, ⟨_, rfl⟩ | ⟨_, rfl⟩⟩ | ⟨acc, _, rfl | rfl⟩ | ⟨hn, rfl⟩ |
    ⟨c, _, rfl⟩ | ⟨q, a, _, rfl⟩
  case inl =>
    obtain ⟨hadm, ⟨_, rfl⟩ | ⟨hw, hlow, rfl⟩⟩ := exec_next he
    · exact .inr (.inr ⟨by simp, .inl (by simp)⟩)
    · exact .inl ⟨i, ⟨hn, rest, hd⟩, hw, (admitsAccess_popEvent s i).1 hadm, hlow, rfl, rfl⟩
  case inr.inr.inr.inl =>
    cases hp : present s.cfg
    · exact .inr (.inr ⟨by simp [hp], .inl (by simp [hp])⟩)
    · exact .inr (.inl ⟨hn, rfl, by simp [hp], by simp [hp]⟩)
  all_goals exact .inr (.inr ⟨rfl, by simp⟩)

/-- No step writes the configuration, and the memory changes by a list of stores at most. -/
theorem step_cfg_mem {s t : State} (h : step s = .next t) :
    t.cfg = s.cfg ∧ ∃ stores, t.mem = memStores s.mem stores := by
  rcases step_next h with ⟨_, i, rest, _, he⟩ | ⟨k, e, _, ⟨_, rfl⟩ | ⟨_, rfl⟩⟩ | ⟨acc, _, rfl | rfl⟩ | ⟨_, rfl⟩ |
    ⟨c, _, rfl⟩ | ⟨q, a, _, rfl⟩
  case inl =>
    obtain ⟨hcfg, _, _, _, hmem, _⟩ := exec_next_frame he
    exact ⟨hcfg, [], hmem⟩
  case inr.inl.inl => exact ⟨rfl, e.stores, rfl⟩
  case inr.inl.inr => exact ⟨rfl, e.stores, rfl⟩
  case inr.inr.inr.inl => exact ⟨by simp, [], by simp [memStores]⟩
  all_goals exact ⟨rfl, [], rfl⟩

/-- Settles O13, by the kinds of step. -/
theorem stepKeepsConfigAndInputs : Obligations.StepKeepsConfigAndInputs := by
  intro s t h
  refine ⟨(step_cfg_mem h).1, fun hno => ?_, fun c hc => ?_⟩
  · rcases step_next h with ⟨_, i, rest, _, he⟩ | ⟨k, e, _, ⟨_, rfl⟩ | ⟨_, rfl⟩⟩ | ⟨acc, _, rfl | rfl⟩ | ⟨_, rfl⟩ |
      ⟨c, hc, _⟩ | ⟨q, a, _, rfl⟩
    case inl => exact (exec_next_frame he).2.1
    case inr.inr.inr.inl => simp
    case inr.inr.inr.inr.inl => exact absurd hc (hno c)
    all_goals rfl
  · have hstep : step s = .next { s.popEvent with ctx := c } := by rw [step, hc]; rfl
    cases h.symm.trans hstep
    exact ⟨rfl, rfl, rfl⟩

/-- Settles O11: of the three cases of a step, the last leaves SDCR alone. -/
theorem sdcrChangesOnlyByMcrAtEL3OrReset : Obligations.SdcrChangesOnlyByMcrAtEL3OrReset := by
  intro s t h hchanged
  rcases step_sdcr_stale h with ⟨i, hruns, hw, hadm, hlow, _⟩ | ⟨hreset, hpresent, _⟩ | ⟨hsame, _⟩
  · obtain ⟨⟨_, _, _, hdebug⟩, hpresent, hel⟩ := hadm
    exact ⟨hpresent, .inr ⟨i, hruns, hw, hel, hlow, hdebug⟩⟩
  · exact ⟨hpresent, .inl hreset⟩
  · exact absurd hsame hchanged

/-- Settles O12: an access that completes has passed the shared checks. -/
theorem accessCompletesOnlyAtEL3 : Obligations.AccessCompletesOnlyAtEL3 := by
  intro s t i h
  obtain ⟨⟨_, hpresent, hel⟩, ⟨hread, _⟩ | ⟨_, hlow, _⟩⟩ := exec_next h
  · exact ⟨hel, hpresent, by simp [hread]⟩
  · exact ⟨hel, hpresent, fun _ => hlow⟩

/-! The invariant. -/

theorem sdcrReset_fixedZero {c : Config} (h : configWf c = true) : c.sdcrReset &&& fixedZero c = 0#32 := by
  simp only [configWf, Bool.and_eq_true, beq_iff_eq] at h
  obtain ⟨⟨_, hreset⟩, _⟩ := h
  exact hreset

/-- Settles O14, by the three cases of a step: an `MCR` stores a value with the fixed bits 0 and adds SDCR to `Stale`, a
reset takes the value the configuration constrains, any other step leaves SDCR. -/
theorem stepKeepsInv : Obligations.StepKeepsInv := by
  intro s t hinv h
  obtain ⟨hwf, hsdcr, hstale, hsorted, hmem⟩ := hinv
  obtain ⟨hcfg, stores, hstores⟩ := step_cfg_mem h
  have hmem' : memWf t.mem = true := hstores ▸ memStores_wf hmem stores
  rw [← hcfg] at hwf hsdcr hstale
  rcases step_sdcr_stale h with ⟨i, _, _, _, _, hv, hl⟩ | ⟨_, _, hv, hl⟩ | ⟨hv, hl⟩
  · refine ⟨hwf, fun _ => ?_, fun hp v hmem => ?_, hl ▸ staleInsert_wf hsorted, hmem'⟩
    · rw [hv, ← hcfg]
      exact storedValue_and_fixedZero ..
    · rcases mem_staleInsert.1 (hl ▸ hmem) with rfl | hold
      exacts [hsdcr hp, hstale hp v hold]
  · refine ⟨hwf, fun _ => ?_, by simp [hl], hl ▸ rfl, hmem'⟩
    rw [hv, ← hcfg]
    exact sdcrReset_fixedZero hwf
  · refine ⟨hwf, hv ▸ hsdcr, ?_, ?_, hmem'⟩
    · rcases hl with hl | hl
      exacts [hl ▸ hstale, by simp [hl]]
    · rcases hl with hl | hl
      exacts [hl ▸ hsorted, hl ▸ rfl]

/-- Settles O15, on the one configuration the model names. -/
theorem resetHasInv : Obligations.ResetHasInv :=
  ⟨by decide, by decide, fun _ v hv => absurd hv List.not_mem_nil, rfl, reset_mem_wf⟩

/-! Along a run. -/

/-- A run with no step that may write SDCR leaves it as it was. -/
theorem runsTo_sdcr_eq {k : Nat} {s t : State} (h : runsTo k s t)
    (hno : ∀ j, j < k → ∀ v, runsTo j s v → ¬ v.mayWriteSdcr) : t.sdcr = s.sdcr := by
  induction k generalizing s with
  | zero => exact congrArg State.sdcr h.symm
  | succ k ih =>
    obtain ⟨u, hstep, hrest⟩ := h
    have hfirst : ¬ s.mayWriteSdcr := hno 0 (Nat.succ_pos k) s rfl
    have hu : u.sdcr = s.sdcr := by
      rcases step_sdcr_stale hstep with ⟨i, hruns, hw, _⟩ | ⟨hreset, _⟩ | ⟨hsame, _⟩
      · exact absurd (.inr ⟨i, hruns, hw⟩) hfirst
      · exact absurd (.inl hreset) hfirst
      · exact hsame
    have ht : t.sdcr = u.sdcr := ih hrest fun j hj v hv => hno (j + 1) (by omega) v ⟨u, hstep, hv⟩
    exact ht.trans hu

/-- An `MCR` that completes as a step leaves its register's stored value in SDCR. -/
theorem step_mcr_sdcr {s t : State} {i : Instr} (h : s.runsInstr i) (hw : isWrite i = true) (hstep : step s = .next t) :
    t.sdcr = storedValue s.cfg (Config.drawSpdKept s.draws) (s.readX (rtOf i)) := by
  obtain ⟨_, ⟨hread, _⟩ | ⟨_, _, rfl⟩⟩ := exec_next ((step_of_runsInstr h).symm.trans hstep)
  · simp [hread] at hw
  · rfl

/-- An `MRC` that completes as a step leaves SDCR in its register. -/
theorem step_mrc_x {s t : State} {i : Instr} (h : s.runsInstr i) (hw : isWrite i = false) (hstep : step s = .next t)
    (hr : (rtOf i).toNat < 15) : t.x[(rtOf i).toNat] = s.sdcr := by
  obtain ⟨_, ⟨_, rfl⟩ | ⟨hwrite, _⟩⟩ := exec_next ((step_of_runsInstr h).symm.trans hstep)
  · simp [writeX_of_lt _ _ hr]
  · simp [hw] at hwrite

/-- Settles O17: the write stores the value, no step between changes it, the read copies it. -/
theorem readReturnsTheLastWrite : Obligations.ReadReturnsTheLastWrite := by
  intro k s s1 t u iw ir hw hr hruns hwrite hstep hrun hno hruns' hread hstep'
  calc u.x[(rtOf ir).toNat]
    _ = t.sdcr := step_mrc_x hruns' hread hstep' hr
    _ = s1.sdcr := runsTo_sdcr_eq hrun hno
    _ = storedValue s.cfg (Config.drawSpdKept s.draws) (s.readX (rtOf iw)) := step_mcr_sdcr hruns hwrite hstep
    _ = _ := by rw [readX_of_lt _ hw]

/-- What becomes stale in a step was SDCR before it. -/
theorem step_stale_subset {s t : State} (h : step s = .next t) {v : Word} (hv : v ∈ t.stale) :
    v = s.sdcr ∨ v ∈ s.stale := by
  rcases step_sdcr_stale h with ⟨_, _, _, _, _, _, hl⟩ | ⟨_, _, _, hl⟩ | ⟨_, hl | hl⟩ <;> rw [hl] at hv
  · exact mem_staleInsert.1 hv
  · cases hv
  · exact .inr hv
  · cases hv

/-- Every value visible at the end of a run was stale at its start or was SDCR at some step of it. -/
theorem runsTo_maySee {k : Nat} {s t : State} (h : runsTo k s t) {v : Word} (hv : t.maySee v) :
    v ∈ s.stale ∨ ∃ j, j ≤ k ∧ ∃ u, runsTo j s u ∧ u.sdcr = v := by
  induction k generalizing s with
  | zero =>
    cases h
    rcases hv with rfl | hstale
    exacts [.inr ⟨0, le_rfl, _, rfl, rfl⟩, .inl hstale]
  | succ k ih =>
    obtain ⟨u, hstep, hrest⟩ := h
    rcases ih hrest with hstale | ⟨j, hj, w, hw, hsdcr⟩
    · rcases step_stale_subset hstep hstale with rfl | hold
      exacts [.inr ⟨0, Nat.zero_le _, s, rfl, rfl⟩, .inl hold]
    · exact .inr ⟨j + 1, by omega, w, ⟨u, hstep, hw⟩, hsdcr⟩

/-- Settles O18: whatever is drawn is visible at the end of the run. -/
theorem indirectReadsSeeOnlyHeldValues : Obligations.IndirectReadsSeeOnlyHeldValues :=
  fun _ _ t n h => runsTo_maySee h (seen_maySee t n)

/-! The steps of the other agents. -/

/-- With nothing stale every indirect read sees SDCR. -/
theorem seen_of_stale_nil {s : State} (h : s.stale = []) (n : Nat) : s.seen n = s.sdcr := by
  rw [State.seen, h, pick_nil]

/-- Settles O19, by `is_context_sync` of the step's kind. -/
theorem contextSynchronisationEmptiesStale : Obligations.ContextSynchronisationEmptiesStale := by
  intro s k e h
  have hstep : step s = enclosingStep k e s.popEvent := by rw [step, h]; rfl
  by_cases hk : k ∈ s.cfg.contextSyncSteps
  · refine ⟨(s.popEvent.applyEnclosing e).synchronise, ?_, rfl, fun _ => ⟨rfl, seen_of_stale_nil rfl⟩,
      fun hno => absurd hk hno⟩
    simp [hstep, enclosingStep, hk]
  · refine ⟨s.popEvent.applyEnclosing e, ?_, rfl, fun hyes => absurd hyes hk, fun _ => rfl⟩
    simp [hstep, enclosingStep, hk]

/-- Settles O20, for every value of the parameter. -/
theorem resetSetsSdcrAndEmptiesStale : Obligations.ResetSetsSdcrAndEmptiesStale := by
  intro s h hp
  have hstep : step s = .next s.popEvent.applyReset := by rw [step, h]; rfl
  have hpresent : present s.cfg = true := hp
  exact ⟨s.popEvent.applyReset, hstep, by simp [hpresent], by simp [hpresent]⟩

/-- An answer reads nothing of the schedule. -/
theorem answer_popEvent (s : State) (q : Query) : answer s.popEvent q = answer s q := by
  cases q <;> rfl

/-- Settles O38: the step is the query asked of the state with its turn taken off the schedule. -/
theorem queryRecordsItsAnswer : Obligations.QueryRecordsItsAnswer := by
  intro s q es hes
  have hnext : s.nextEvent = .query q := by simp [State.nextEvent, hes]
  have hstep : step s = ask q s.popEvent := by rw [step, hnext]; rfl
  refine ⟨fun a ha => ?_, fun r hr => ?_⟩
  · rw [hstep, ask, answer_popEvent, ha]
    simp [State.popEvent, hes]
  · rw [hstep, ask, answer_popEvent, hr]
    rfl

end Sys2Proof.Proofs
end

section
/-!
Encodings: which words decode and to what, that decoding and encoding are inverse, and the mask and match of R68 (R66
to R68).
-/
namespace Sys2Proof.Proofs
open Sys2Proof.Machine

/-- The words that are an access: the register transfer layout with SDCR's tuple (R61, R66). -/
def isSdcrWord (w : Word) : Prop := wordIsRegisterTransfer w = true ∧ wordTuple w = sdcrTuple

/-- Bits 31:28 admit the word: a condition in A32 (R66), the fixed bits in T32 (R67). -/
def condDecodes (iset : ISet) (w : Word) : Prop :=
  match iset with
  | .a32 => wordCond w ≠ 0b1111#4
  | .t32 => wordCond w = 0b1110#4

/-- The access a word stands for, by its fields (R66, R67). -/
def accessOfWord (iset : ISet) (w : Word) : Instr :=
  match iset with
  | .a32 => if wordIsRead w then .mrcA32 (wordCond w) (wordRt w) else .mcrA32 (wordCond w) (wordRt w)
  | .t32 => if wordIsRead w then .mrcT32 (wordRt w) else .mcrT32 (wordRt w)

/-! Words. -/

/-- A word of the layout is put together again from the three fields that vary. -/
theorem assembleWord_of_isSdcrWord {w : Word} (h : isSdcrWord w) :
    assembleWord (wordCond w) (wordIsRead w) (wordRt w) = w := by
  obtain ⟨hlayout, htuple⟩ := h
  simp only [wordIsRegisterTransfer, Bool.and_eq_true, beq_iff_eq] at hlayout
  obtain ⟨hclass, hbit4⟩ := hlayout
  have hone : 0b1#1 = w.extractLsb' 4 1 := by
    ext n hn
    interval_cases n
    simpa using hbit4.symm
  have hread : BitVec.ofBool (wordIsRead w) = w.extractLsb' 20 1 := by
    ext n hn
    interval_cases n
    simp [wordIsRead]
  rw [assembleWord, ← htuple, ← hclass, hone, hread]
  refine BitVec.eq_of_getLsbD_eq fun n hn => ?_
  simp only [wordTuple, wordCond, wordRt, BitVec.getLsbD_append, BitVec.getLsbD_extractLsb']
  interval_cases n <;> rfl

theorem isSdcrWord_assembleWord (cond rt : Nibble) (isRead : Bool) : isSdcrWord (assembleWord cond isRead rt) := by
  obtain ⟨_, _, htuple, _, hlayout⟩ := assembleWord_fields cond rt isRead
  exact ⟨hlayout, htuple⟩

/-- A T32 access begins a 4-byte instruction (R71). -/
theorem t32IsWide_of_isSdcrWord {w : Word} (h : isSdcrWord w) (hc : wordCond w = 0b1110#4) :
    t32IsWide (w.extractLsb' 16 16) = true := by
  have hwide : ∀ (isRead : Bool) (rt : Nibble),
      t32IsWide ((assembleWord 0b1110#4 isRead rt).extractLsb' 16 16) = true := by decide
  rw [← assembleWord_of_isSdcrWord h, hc]
  exact hwide ..

/-- An access decodes by its fields. -/
theorem decodeWord_of_isSdcrWord {iset : ISet} {w : Word} (h : isSdcrWord w) (hc : condDecodes iset w) :
    decodeWord iset w = .ok (accessOfWord iset w) := by
  have hwide := t32IsWide_of_isSdcrWord h
  obtain ⟨hlayout, htuple⟩ := h
  cases iset with
  | a32 =>
    rw [condDecodes] at hc
    cases hr : wordIsRead w <;> simp [decodeWord, accessOfWord, hc, hlayout, htuple, hr]
  | t32 =>
    rw [condDecodes] at hc
    cases hr : wordIsRead w <;> simp [decodeWord, accessOfWord, hc, hwide hc, hlayout, htuple, hr]

/-- Only an access decodes. -/
theorem isSdcrWord_of_decodeWord {iset : ISet} {w : Word} {i : Instr} (h : decodeWord iset w = .ok i) :
    isSdcrWord w ∧ condDecodes iset w := by
  cases iset with
  | a32 =>
    simp only [decodeWord] at h
    split at h
    · cases h
    · split at h
      · cases h
      · split at h
        · cases h
        · simp_all [isSdcrWord, condDecodes]
  | t32 =>
    simp only [decodeWord] at h
    split at h
    · cases h
    · split at h
      · cases h
      · split at h
        · cases h
        · simp_all [isSdcrWord, condDecodes]

theorem decodeWord_ok_iff {iset : ISet} {w : Word} {i : Instr} :
    decodeWord iset w = .ok i ↔ isSdcrWord w ∧ condDecodes iset w ∧ i = accessOfWord iset w := by
  constructor
  · intro h
    obtain ⟨hw, hc⟩ := isSdcrWord_of_decodeWord h
    exact ⟨hw, hc, Except.ok.inj (h.symm.trans (decodeWord_of_isSdcrWord hw hc))⟩
  · rintro ⟨hw, hc, rfl⟩
    exact decodeWord_of_isSdcrWord hw hc

theorem accessOfWord_iset (iset : ISet) (w : Word) : (accessOfWord iset w).iset = iset := by
  cases iset <;> cases hr : wordIsRead w <;> simp [accessOfWord, hr, Instr.iset]

theorem accessOfWord_wellFormed {iset : ISet} {w : Word} (hc : condDecodes iset w) :
    (accessOfWord iset w).wellFormed = true := by
  cases iset <;> cases hr : wordIsRead w <;> simp_all [accessOfWord, condDecodes, Instr.wellFormed]

theorem encodeWord_accessOfWord {iset : ISet} {w : Word} (h : isSdcrWord w) (hc : condDecodes iset w) :
    encodeWord (accessOfWord iset w) = w := by
  have hw := assembleWord_of_isSdcrWord h
  cases iset <;> cases hr : wordIsRead w <;> simp_all [accessOfWord, condDecodes, encodeWord]

/-- The number of a well-formed instruction decodes to it. -/
theorem decodeWord_encodeWord {i : Instr} (h : i.wellFormed = true) : decodeWord i.iset (encodeWord i) = .ok i := by
  have assembled (cond rt : Nibble) (isRead : Bool) := assembleWord_fields cond rt isRead
  refine decodeWord_ok_iff.2 ⟨?_, ?_, ?_⟩
  · cases i <;> exact isSdcrWord_assembleWord ..
  · cases i <;> simp_all [condDecodes, encodeWord, Instr.iset, Instr.wellFormed]
  · cases i <;> simp_all [accessOfWord, encodeWord, Instr.iset]

/-! Byte sequences. -/

/-- Settles O41: laying the instruction's number out in bytes loses nothing of it. -/
theorem decodeOfEncode : Obligations.DecodeOfEncode := by
  intro i rest h
  rw [encode, decode_wordBytes, decodeWord_encodeWord h]
  rfl

/-- Only four bytes and more decode, and as the number they hold does. -/
theorem decode_ok {iset : ISet} {bytes rest : List Byte} {i : Instr} (h : decode iset bytes = .ok (i, rest)) :
    ∃ b0 b1 b2 b3, bytes = b0 :: b1 :: b2 :: b3 :: rest ∧ decodeWord iset (bytesWord iset b0 b1 b2 b3) = .ok i := by
  unfold decode at h
  split at h
  · split at h
    · cases h
      exact ⟨_, _, _, _, rfl, ‹_›⟩
    · cases h
  all_goals (try split at h) <;> cases h

/-- Settles O42: the number the four bytes hold is put together again from its fields, and laid out again. -/
theorem encodeOfDecode : Obligations.EncodeOfDecode := by
  intro iset bytes rest i h
  obtain ⟨b0, b1, b2, b3, rfl, hd⟩ := decode_ok h
  obtain ⟨hw, hc, rfl⟩ := decodeWord_ok_iff.1 hd
  refine ⟨accessOfWord_wellFormed hc, accessOfWord_iset .., ?_⟩
  rw [encode, accessOfWord_iset, encodeWord_accessOfWord hw hc, wordBytes_bytesWord]
  rfl

/-! Mask and match. -/

theorem extractLsb'_of_masked {w m : Word} {start len : Nat} (h : m.extractLsb' start len = BitVec.allOnes len) :
    (w &&& m).extractLsb' start len = w.extractLsb' start len := by
  rw [BitVec.extractLsb'_and, h, BitVec.and_allOnes]

/-- The tuple, the layout and `L` lie within R68's A32 mask. -/
theorem isSdcrWord_masked (w : Word) :
    (isSdcrWord (w &&& 0x0FFF0FFF#32) ↔ isSdcrWord w) ∧ wordIsRead (w &&& 0x0FFF0FFF#32) = wordIsRead w := by
  simp [isSdcrWord, wordIsRegisterTransfer, wordTuple, wordIsRead, extractLsb'_of_masked]

/-- R68's A32 rows. -/
theorem maskMatchA32_iff (w : Word) (isRead : Bool) :
    w &&& 0x0FFF0FFF#32 = (if isRead then 0x0E110F33#32 else 0x0E010F33#32) ↔
      isSdcrWord w ∧ wordIsRead w = isRead := by
  have assembled : ∀ (cond rt : Nibble) (r : Bool),
      assembleWord cond r rt &&& 0x0FFF0FFF#32 = if r then 0x0E110F33#32 else 0x0E010F33#32 := by decide
  obtain ⟨hword, hread⟩ := isSdcrWord_masked w
  constructor
  · intro h
    rw [← hword, ← hread, h]
    cases isRead <;> exact ⟨⟨by decide, by decide⟩, by decide⟩
  · rintro ⟨h, rfl⟩
    rw [← assembled (wordCond w) (wordRt w), assembleWord_of_isSdcrWord h]

/-- R68's T32 rows: the A32 rows with bits 31:28 fixed at `1110`. -/
theorem maskMatchT32_iff (w : Word) (isRead : Bool) :
    w &&& 0xFFFF0FFF#32 = (if isRead then 0xEE110F33#32 else 0xEE010F33#32) ↔
      wordCond w = 0b1110#4 ∧ isSdcrWord w ∧ wordIsRead w = isRead := by
  have assembled : ∀ (rt : Nibble) (r : Bool),
      assembleWord 0b1110#4 r rt &&& 0xFFFF0FFF#32 = if r then 0xEE110F33#32 else 0xEE010F33#32 := by decide
  constructor
  · intro h
    have hcond : wordCond (w &&& 0xFFFF0FFF#32) = wordCond w := extractLsb'_of_masked (by decide)
    have hmask : w &&& 0x0FFF0FFF#32 = (w &&& 0xFFFF0FFF#32) &&& 0x0FFF0FFF#32 := by rw [BitVec.and_assoc]; rfl
    rw [← maskMatchA32_iff, ← hcond, hmask, h]
    cases isRead <;> decide
  · rintro ⟨hcond, h, rfl⟩
    rw [← assembled (wordRt w), ← hcond, assembleWord_of_isSdcrWord h]

/-- Settles O43: the mask and match of each row say that the word is an access of the row's direction. -/
theorem maskAndMatchSelect : Obligations.MaskAndMatchSelect := by
  intro w cond rt
  have hreadA := maskMatchA32_iff w true
  have hwriteA := maskMatchA32_iff w false
  have hreadT := maskMatchT32_iff w true
  have hwriteT := maskMatchT32_iff w false
  simp only [if_true, Bool.false_eq_true, if_false] at hreadA hwriteA hreadT hwriteT
  rw [hreadA, hwriteA, hreadT, hwriteT]
  simp only [decodeWord_ok_iff, condDecodes, accessOfWord]
  refine ⟨?mrcA32, ?mcrA32, ?mrcT32, ?mcrT32⟩
  all_goals cases hr : wordIsRead w <;> grind [wordCond, wordRt]

/-- Settles O44, by evaluation. -/
theorem specWordsDecode : Obligations.SpecWordsDecode := by
  unfold Obligations.SpecWordsDecode
  decide

end Sys2Proof.Proofs
end

section
/-!
An access to SDCR, whole: how it ends by each of the shared checks (R73 to R80), and what it leaves when it completes
(R72, R77).
-/
namespace Sys2Proof.Proofs
open Sys2Proof.Machine

/-! How an access ends. -/

/-- An access is refused exactly as R80's list says. -/
theorem exec_refused_iff (i : Instr) (s : State) (r : Refusal) :
    exec i s = .refused r ↔ refusals s (condRefusalOf i s) (rtOf i) = some r := by
  obtain ⟨t, ht⟩ := exec_eq_sdcrAccess i s
  rw [ht, sdcrAccess]
  cases refusals s (condRefusalOf i s) (rtOf i) with
  | some r' => simp [refuse]
  | none =>
    cases presenceCheck s with
    | some f => simp [raise]
    | none =>
      cases accessCheck s.ctx with
      | some f => simp [raise]
      | none =>
        by_cases hstop : isWrite i = true ∧ s.ctx.cp15sdisable2 = .high
        · simp [hstop]
        · simp only [if_neg hstop, reduceCtorEq]

/-- With no refusal, what the presence check raises is what the instruction ends in. -/
theorem exec_fault_of_presenceCheck {s : State} {i : Instr} {f : Fault} (hi : s.notRefused i)
    (hf : presenceCheck s = some f) : exec i s = .fault f := by
  obtain ⟨t, ht⟩ := exec_eq_sdcrAccess i s
  have hrefusals := (notRefused_iff s i).1 hi
  rw [ht]
  simp [sdcrAccess, hrefusals, hf, raise]

/-- Settles O10: the list of R80 from its first entry to its last. -/
theorem refusedExactlyByRefusals : Obligations.RefusedExactlyByRefusals := by
  intro s
  have admitted {rt : Nibble} (h13 : rt ≠ 13#4) (h15 : rt ≠ 15#4) : rtAdmitted rt = true :=
    (rtAdmitted_iff rt).2 ⟨h13, h15⟩
  refine ⟨fun i => ?exactly, fun i hrt => ?register, fun cond rt h13 h15 hcond => ?condition,
    fun cond rt h13 h15 hit => ?itBlock, fun i h13 h15 hcond hdebug => ?debug⟩
  case exactly =>
    simp only [exec_refused_iff, notRefused_iff]
    exact Option.ne_none_iff_exists'.symm
  case register =>
    rw [exec_refused_iff]
    rcases hrt with h | h <;> simp [refusals, rtAdmitted, h]
  case condition =>
    simp [exec_refused_iff, refusals, rtOf, admitted h13 h15, condRefusalOf, a32CondRefusal, condAlways, hcond]
  case itBlock =>
    simp [exec_refused_iff, refusals, rtOf, admitted h13 h15, condRefusalOf, t32CondRefusal, hit]
  case debug =>
    simp [exec_refused_iff, refusals, admitted h13 h15, (condRefusalOf_none_iff i s).2 hcond, hdebug]

/-- Settles O8: where the draw takes the trap, it is that of the first `HSTR` arm that applies. -/
theorem absentRegisterIsUndefined : Obligations.AbsentRegisterIsUndefined := by
  intro s i hi hp
  by_cases htrap : absentHstrCorner s.ctx && Config.drawAbsentTrap s.draws
  · have hexec : exec i s = .fault (accessCheckEL1 s.ctx) :=
      exec_fault_of_presenceCheck hi (by simp [presenceCheck, present, hp, htrap])
    simp only [absentHstrCorner, Bool.and_eq_true, Bool.or_eq_true, beq_iff_eq] at htrap
    obtain ⟨⟨hel, harm⟩, _⟩ := htrap
    by_cases hel2 : hstrEL2Traps s.ctx = true
    · rw [accessCheckEL1, if_pos hel2] at hexec
      simp only [hstrEL2Traps, Bool.and_eq_true, Bool.not_eq_true', beq_iff_eq] at hel2
      obtain ⟨⟨henabled, ha64⟩, hbit⟩ := hel2
      exact .inr (.inl ⟨hel, henabled, ha64, hbit, hexec⟩)
    · have hhyp := harm.resolve_left hel2
      rw [accessCheckEL1, if_neg hel2, if_pos hhyp] at hexec
      simp only [hstrTraps, Bool.and_eq_true, beq_iff_eq] at hhyp
      obtain ⟨⟨henabled, ha32⟩, hbit⟩ := hhyp
      exact .inr (.inr ⟨hel, henabled, ha32, hbit, hexec⟩)
  · exact .inl (exec_fault_of_presenceCheck hi (by simp [presenceCheck, present, hp, htrap]))

/-- The six inputs of R75's columns, in a context of EL1. -/
def el1Inputs (e2 a2 : Bool) (hstrEL2 hstr : Bit) (secure a3 : Bool) : Ctx :=
  { resetCtx with
    el := .el1, el2Enabled := e2, el2AArch32 := a2, hstrEL2T1 := hstrEL2, hstrT1 := hstr, secure := secure
    el3AArch32 := a3 }

/-- R75's table against the arms of R74, on every value of the six columns. -/
theorem el1Rows_partition : ∀ (e2 a2 : Bool) (hstrEL2 hstr : Bit) (secure a3 : Bool),
    ∃ r ∈ el1Rows, el1Rows.filter (fun r => r.covers (el1Inputs e2 a2 hstrEL2 hstr secure a3)) = [r] ∧
      accessCheckEL1 (el1Inputs e2 a2 hstrEL2 hstr secure a3) = r.outcome := by
  decide

/-- Settles O7: neither the table nor the arms read an input outside the six columns. -/
theorem el1TablePartitionsAndDecides : Obligations.El1TablePartitionsAndDecides := by
  intro s i hi hp hel
  obtain ⟨r, _, hfilter, hr⟩ := el1Rows_partition s.ctx.el2Enabled s.ctx.el2AArch32 s.ctx.hstrEL2T1 s.ctx.hstrT1
    s.ctx.secure s.ctx.el3AArch32
  have harm : accessCheckEL1 s.ctx = r.outcome := hr
  exact ⟨r, hfilter, exec_fault_of_accessCheck hi hp (by simp [accessCheck, hel, harm])⟩

/-- The checks read the configuration, the inputs, the IT condition and the draw counter, and no register. -/
theorem exec_ends_alike {s u : State} (i : Instr) (hcfg : s.cfg = u.cfg) (hctx : s.ctx = u.ctx)
    (hit : s.itCond = u.itCond) (hdraws : s.draws = u.draws) :
    (∃ r, exec i s = .refused r ∧ exec i u = .refused r) ∨ (∃ f, exec i s = .fault f ∧ exec i u = .fault f) ∨
      ∃ t t', exec i s = .next t ∧ exec i u = .next t' := by
  obtain ⟨t, ht⟩ := exec_eq_sdcrAccess i s
  obtain ⟨t', ht'⟩ := exec_eq_sdcrAccess i u
  have hcond : condRefusalOf i s = condRefusalOf i u := by
    cases i <;> simp [condRefusalOf, t32CondRefusal, hit]
  have hrefusals : refusals s (condRefusalOf i s) (rtOf i) = refusals u (condRefusalOf i u) (rtOf i) := by
    simp [refusals, hcond, hctx]
  have hpresence : presenceCheck s = presenceCheck u := by simp [presenceCheck, hcfg, hctx, hdraws]
  rw [ht, ht', sdcrAccess, sdcrAccess, hrefusals, hpresence, hctx]
  cases refusals u (condRefusalOf i u) (rtOf i) with
  | some r => exact .inl ⟨r, rfl, rfl⟩
  | none =>
    cases presenceCheck u with
    | some f => exact .inr (.inl ⟨f, rfl, rfl⟩)
    | none =>
      cases accessCheck u.ctx with
      | some f => exact .inr (.inl ⟨f, rfl, rfl⟩)
      | none =>
        by_cases hstop : isWrite i = true ∧ u.ctx.cp15sdisable2 = .high
        · exact .inr (.inl ⟨.undefined, if_pos hstop, if_pos hstop⟩)
        · exact .inr (.inr ⟨t, t', if_neg hstop, if_neg hstop⟩)

/-- Settles O16, by the three ways both end. -/
theorem sdcrDoesNotGovernItself : Obligations.SdcrDoesNotGovernItself := by
  intro s u i hcfg hctx hit hdraws
  rcases exec_ends_alike i hcfg hctx hit hdraws with ⟨r, hs, hu⟩ | ⟨f, hs, hu⟩ | ⟨t, t', hs, hu⟩ <;> simp [hs, hu]

/-! What an admitted access leaves. -/

theorem exec_read {s : State} {i : Instr} (h : s.admitsAccess i) (hr : isWrite i = false) :
    exec i s = .next (s.writeX (rtOf i) s.sdcr).advancePc := by
  obtain ⟨t, ht⟩ := exec_of_admitsAccess h
  rw [if_neg (by simp [hr])] at ht
  obtain ⟨_, ⟨_, rfl⟩ | ⟨hw, _⟩⟩ := exec_next ht
  · exact ht
  · simp [hr] at hw

theorem exec_write {s : State} {i : Instr} (h : s.admitsAccess i) (hw : isWrite i = true)
    (hlow : s.ctx.cp15sdisable2 = .low) :
    exec i s =
      .next (s.storeSdcr (storedValue s.cfg (Config.drawSpdKept s.draws) (s.readX (rtOf i)))).advancePc := by
  obtain ⟨t, ht⟩ := exec_of_admitsAccess h
  rw [if_neg (by simp [hlow])] at ht
  obtain ⟨_, ⟨hr, _⟩ | ⟨_, _, rfl⟩⟩ := exec_next ht
  · simp [hw] at hr
  · exact ht

/-- Settles O1. -/
theorem mrcCompletesAndCopiesSdcr : Obligations.MrcCompletesAndCopiesSdcr := by
  intro s cond rt h
  refine ⟨fun hadm => ?_, fun hadm => ?_⟩
  all_goals
    rw [exec_read hadm rfl, rtOf, writeX_of_lt _ _ h]
    rfl

/-- Settles O2. -/
theorem mcrCompletesAndStores : Obligations.McrCompletesAndStores := by
  intro s cond rt h hlow
  refine ⟨fun hadm => ?_, fun hadm => ?_⟩
  all_goals
    rw [exec_write hadm rfl hlow, rtOf, readX_of_lt _ h]
    rfl

/-- Settles O3, from what the stored value keeps bit by bit. -/
theorem mcrStoresEachBitAsWritten : Obligations.McrStoresEachBitAsWritten := by
  intro s i h hw hadm hlow
  refine ⟨_, exec_write hadm hw hlow, ?_⟩
  rw [readX_of_lt _ h]
  simp only [advancePc_sdcr, storeSdcr_sdcr]
  generalize s.x[(rtOf i).toNat] = v
  refine ⟨fun n hn h14 => ?bits, fun hspd => ?kept, fun hspd => ?reserved⟩
  case bits =>
    rw [storedValue_getLsbD _ _ _ hn h14]
    simp [keptBits, hn]
  case kept => rw [storedValue_eq, if_neg (fun hclear => hspd hclear.1), spdBits_keptBits]
  case reserved =>
    rw [storedValue_eq]
    split
    · exact .inr (spdBits_and_clear _)
    · exact .inl ((spdBits_keptBits _ _).trans hspd)

/-- Settles O9: the read leaves the same registers whatever the signal's level. -/
theorem cp15sdisable2StopsWritesOnly : Obligations.Cp15sdisable2StopsWritesOnly := by
  intro s i hadm hhigh
  refine ⟨fun hw => ?_, fun hr => ?_⟩
  · obtain ⟨t, ht⟩ := exec_of_admitsAccess hadm
    rw [ht, if_pos ⟨hw, hhigh⟩]
  · have hlow : ({ s with ctx := { s.ctx with cp15sdisable2 := .low } } : State).admitsAccess i := by
      cases i <;> exact hadm
    refine ⟨_, _, exec_read hadm hr, exec_read hlow hr, ?_, by simp⟩
    have hlt := admitsAccess_lt hadm
    simp [writeX_of_lt _ _ hlt]

/-- Settles O4. -/
theorem mrcFrame : Obligations.MrcFrame := by
  intro s t i hr h
  obtain ⟨hadm, ⟨_, rfl⟩ | ⟨hw, _⟩⟩ := exec_next h
  · refine ⟨fun n hn hne => ?_, by simp⟩
    simp [writeX_of_lt _ _ (admitsAccess_lt hadm), Vector.getElem_set_ne _ _ hne.symm]
  · simp [hr] at hw

/-- Settles O5. -/
theorem mcrFrame : Obligations.McrFrame := by
  intro s t i hw h
  obtain ⟨_, ⟨hr, _⟩ | ⟨_, _, rfl⟩⟩ := exec_next h
  · simp [hw] at hr
  · exact ⟨by simp, by simp [mem_staleInsert], by simp⟩

end Sys2Proof.Proofs
end

section
/-!
Fetching: what a step does by the bytes at the program counter, and what an assembler line stands for (R62 to R71).
-/
namespace Sys2Proof.Proofs
open Sys2Proof.Machine

/-! What is fetched. -/

theorem fetchBytes_cons {m : List Host.Cell} {a : Word} {v : Byte} (h : memRead m a.toNat = some v) (n : Nat) :
    fetchBytes m a (n + 1) = v :: fetchBytes m (a + 1#32) n := by
  rw [fetchBytes, h]

theorem fetchBytes_none {m : List Host.Cell} {a : Word} (h : memRead m a.toNat = none) (n : Nat) :
    fetchBytes m a n = [] := by
  cases n with
  | zero => rfl
  | succ n => rw [fetchBytes, h]

theorem step_instruction {s : State} (h : s.nextEvent = .instruction) : step s = runInstruction s.popEvent := by
  rw [step, h]
  rfl

theorem step_of_decode_truncated {s : State} (h : s.nextEvent = .instruction)
    (hd : decode s.iset s.nextBytes = .error .truncated) : step s = .fault (.noInstruction s.pc) := by
  have hpop : decode s.popEvent.iset s.popEvent.nextBytes = .error .truncated := hd
  rw [step_instruction h, runInstruction, hpop]
  rfl

theorem step_of_decode_error {s : State} {e : DecodeError} (h : s.nextEvent = .instruction)
    (hd : decode s.iset s.nextBytes = .error e) (he : e ≠ .truncated) : step s = .refused .notAnSdcrAccess := by
  have hpop : decode s.popEvent.iset s.popEvent.nextBytes = .error e := hd
  rw [step_instruction h, runInstruction, hpop]
  exact if_neg he

theorem nextBytes_of_four {s : State} {b0 b1 b2 b3 : Byte} (h0 : memRead s.mem s.pc.toNat = some b0)
    (h1 : memRead s.mem (s.pc + 1#32).toNat = some b1) (h2 : memRead s.mem (s.pc + 2#32).toNat = some b2)
    (h3 : memRead s.mem (s.pc + 3#32).toNat = some b3) : s.nextBytes = [b0, b1, b2, b3] := by
  have h2' : memRead s.mem (s.pc + 1#32 + 1#32).toNat = some b2 := by rwa [BitVec.add_assoc]
  have h3' : memRead s.mem (s.pc + 1#32 + 1#32 + 1#32).toNat = some b3 := by rwa [BitVec.add_assoc, BitVec.add_assoc]
  rw [State.nextBytes, fetchBytes_cons h0, fetchBytes_cons h1, fetchBytes_cons h2', fetchBytes_cons h3']
  rfl

/-- Settles O45. -/
theorem stepRunsTheDecodedInstruction : Obligations.StepRunsTheDecodedInstruction := by
  intro s i b0 b1 b2 b3 h h0 h1 h2 h3 _ hd
  exact step_of_runsInstr ⟨h, [], (nextBytes_of_four h0 h1 h2 h3).symm ▸ hd⟩

/-! What is placed is fetched. -/

theorem memRead_memWriteBytes_of_ne (m : List Host.Cell) (a b : Word) (bytes : List Byte)
    (h : ∀ k < bytes.length, b ≠ a + BitVec.ofNat 32 k) :
    memRead (memWriteBytes m a bytes) b.toNat = memRead m b.toNat := by
  induction bytes generalizing m a with
  | nil => rfl
  | cons v rest ih =>
    have hne : b.toNat ≠ a.toNat := by
      have := h 0 (Nat.succ_pos _)
      simpa [BitVec.toNat_inj] using this
    rw [memWriteBytes, ih, memRead_memWrite_of_ne _ _ hne]
    intro k hk hb
    refine h (k + 1) (by simpa using hk) ?_
    rw [hb, Nat.add_comm, BitVec.ofNat_add, BitVec.add_assoc]

/-- Bytes written at an address are fetched from it, wrapping as they were written. -/
theorem fetchBytes_memWriteBytes (m : List Host.Cell) (a : Word) (bytes : List Byte) (hlen : bytes.length ≤ 2 ^ 32) :
    fetchBytes (memWriteBytes m a bytes) a bytes.length = bytes := by
  induction bytes generalizing m a with
  | nil => rfl
  | cons v rest ih =>
    have hlt : rest.length < 2 ^ 32 := hlen
    have hfirst : memRead (memWriteBytes m a (v :: rest)) a.toNat = some v := by
      rw [memWriteBytes, memRead_memWriteBytes_of_ne, memRead_memWrite_self]
      intro k hk
      bv_omega
    rw [List.length_cons, fetchBytes_cons hfirst, memWriteBytes, ih _ _ hlt.le]

theorem encode_length (i : Instr) : (encode i).length = 4 := by
  cases i <;> rfl

/-- Settles O46: the four bytes written are the four fetched, and they decode to the instruction (O41). -/
theorem placedInstructionRuns : Obligations.PlacedInstructionRuns := by
  intro s i hwf h hiset
  have hbytes : fetchBytes (memWriteBytes s.mem s.pc (encode i)) s.pc 4 = encode i := by
    have hfetch := fetchBytes_memWriteBytes s.mem s.pc (encode i) (by simp [encode_length])
    rwa [encode_length] at hfetch
  have hd : decode s.iset (encode i) = .ok (i, []) := by
    simpa [hiset] using decodeOfEncode i [] hwf
  have hruns : ({ s with mem := memWriteBytes s.mem s.pc (encode i) } : State).runsInstr i :=
    ⟨h, [], (congrArg (decode s.iset) hbytes).trans hd⟩
  exact step_of_runsInstr hruns

/-! What does not run. -/

theorem decodeWord_ne_truncated (iset : ISet) (w : Word) : decodeWord iset w ≠ .error .truncated := by
  unfold decodeWord
  grind

/-- No row of R68's table selects the number, or its bits 31:28 are no A32 condition. -/
def selectedByNoRow (iset : ISet) (w : Word) : Prop :=
  match iset with
  | .a32 => w.extractLsb' 28 4 = 0b1111#4 ∨
      (w &&& 0x0FFF0FFF#32 ≠ 0x0E110F33#32 ∧ w &&& 0x0FFF0FFF#32 ≠ 0x0E010F33#32)
  | .t32 => w &&& 0xFFFF0FFF#32 ≠ 0xEE110F33#32 ∧ w &&& 0xFFFF0FFF#32 ≠ 0xEE010F33#32

/-- What no row selects does not decode (O43). -/
theorem decodeWord_error_of_selectedByNoRow {iset : ISet} {w : Word} (h : selectedByNoRow iset w) :
    ∃ e, decodeWord iset w = .error e ∧ e ≠ .truncated := by
  cases hd : decodeWord iset w with
  | error e => exact ⟨e, rfl, fun he => decodeWord_ne_truncated iset w (he ▸ hd)⟩
  | ok i =>
    obtain ⟨hw, hc, _⟩ := decodeWord_ok_iff.1 hd
    cases iset with
    | a32 =>
      have hselected := (maskMatchA32_iff w (wordIsRead w)).2 ⟨hw, rfl⟩
      cases hr : wordIsRead w <;> simp_all [selectedByNoRow, condDecodes, wordCond]
    | t32 =>
      have hselected := (maskMatchT32_iff w (wordIsRead w)).2 ⟨hc, hw, rfl⟩
      cases hr : wordIsRead w <;> simp_all [selectedByNoRow]

/-- The bits of a first halfword that begin a 4-byte instruction lie in its second byte (R71, log 12). -/
theorem t32IsWide_bytesHalf (b0 b1 : Byte) :
    t32IsWide (bytesHalf b0 b1) = decide (b1.extractLsb' 3 5 ∈ [0b11101#5, 0b11110#5, 0b11111#5]) := by
  have hbits : (bytesHalf b0 b1).extractLsb' 11 5 = b1.extractLsb' 3 5 := by
    unfold bytesHalf
    ext n hn
    interval_cases n <;> simp
  rw [t32IsWide, hbits, Bool.eq_iff_iff]
  simp [or_assoc]

/-- Two or three bytes never decode: a T32 halfword that begins no 4-byte instruction is narrow, all else falls short. -/
theorem decode_two_or_three_bytes (iset : ISet) (b0 b1 : Byte) {tail : List Byte} (h : tail.length < 2) :
    decode iset (b0 :: b1 :: tail) =
      if iset = .t32 ∧ b1.extractLsb' 3 5 ∉ [0b11101#5, 0b11110#5, 0b11111#5] then .error .t32Narrow
      else .error .truncated := by
  match tail with
  | [] => simp [decode, t32IsWide_bytesHalf]
  | [_] => simp [decode, t32IsWide_bytesHalf]

/-- Settles O47, by how many bytes memory holds at the program counter. -/
theorem noOtherInstructionRuns : Obligations.NoOtherInstructionRuns := by
  intro s h
  refine ⟨fun h0 => ?none, fun b0 h0 h1 => ?one, fun b0 b1 h0 h1 hless => ?twoOrThree,
    fun b0 b1 b2 b3 h0 h1 h2 h3 hno => ?four⟩
  case none =>
    refine step_of_decode_truncated h ?_
    rw [State.nextBytes, fetchBytes_none h0]
    rfl
  case one =>
    refine step_of_decode_truncated h ?_
    rw [State.nextBytes, fetchBytes_cons h0, fetchBytes_none h1]
    rfl
  case twoOrThree =>
    have htail : (fetchBytes s.mem (s.pc + 1#32 + 1#32) 2).length < 2 := by
      rcases hless with h2 | h3
      · simp [BitVec.add_assoc, fetchBytes_none h2]
      · cases h2 : memRead s.mem (s.pc + 2#32).toNat with
        | none => simp [BitVec.add_assoc, fetchBytes_none h2]
        | some b2 => simp [BitVec.add_assoc, fetchBytes_cons h2, fetchBytes_none h3]
    have hbytes : s.nextBytes = b0 :: b1 :: fetchBytes s.mem (s.pc + 1#32 + 1#32) 2 := by
      rw [State.nextBytes, fetchBytes_cons h0, fetchBytes_cons h1]
    have hd := decode_two_or_three_bytes s.iset b0 b1 htail
    rw [← hbytes] at hd
    split at hd
    · rw [if_pos ‹_›]
      exact step_of_decode_error h hd (by decide)
    · rw [if_neg ‹_›]
      exact step_of_decode_truncated h hd
  case four =>
    have hnone : selectedByNoRow s.iset (bytesWord s.iset b0 b1 b2 b3) := by
      cases hi : s.iset <;> simpa [hi, selectedByNoRow] using hno
    obtain ⟨e, he, hne⟩ := decodeWord_error_of_selectedByNoRow hnone
    refine step_of_decode_error h (e := e) ?_ hne
    rw [nextBytes_of_four h0 h1 h2 h3, decode, he]

/-! Assembler lines. -/

/-- What a line stands for: only a line that names SDCR under a condition stands for an instruction, in T32 only one
with always (R63, R65, R66). -/
theorem instr_ok_iff (iset : ISet) (l : AsmLine) (i : Instr) :
    l.instr iset = .ok i ↔ l.tuple = sdcrTuple ∧ l.condition ≠ 0b1111#4 ∧
      ((iset = .a32 ∧ i = l.instrA32) ∨ (iset = .t32 ∧ l.condition = 0b1110#4 ∧ i = l.instrT32)) := by
  unfold AsmLine.instr
  by_cases htuple : l.tuple = sdcrTuple
  · by_cases hcond : l.condition = 0b1111#4
    · simp [htuple, hcond]
    · cases iset
      · simp [htuple, hcond, eq_comm]
      · by_cases halways : l.condition = 0b1110#4 <;> simp [htuple, hcond, halways, eq_comm]
  · simp [htuple]

theorem instrA32_spec (l : AsmLine) :
    isWrite l.instrA32 = !l.isRead ∧ rtOf l.instrA32 = l.rt ∧ l.instrA32.iset = .a32 ∧
      l.instrA32.wellFormed = decide (l.condition ≠ 0b1111#4) ∧
      ∀ s, condAdmitted l.instrA32 s = (l.condition == 0b1110#4) := by
  cases hr : l.isRead <;> simp [AsmLine.instrA32, hr, isWrite, rtOf, Instr.iset, Instr.wellFormed, condAdmitted]

theorem instrT32_spec (l : AsmLine) :
    isWrite l.instrT32 = !l.isRead ∧ rtOf l.instrT32 = l.rt ∧ l.instrT32.iset = .t32 ∧
      l.instrT32.wellFormed = true ∧ ∀ s, condAdmitted l.instrT32 s = s.itCond.isNone := by
  cases hr : l.isRead <;> simp [AsmLine.instrT32, hr, isWrite, rtOf, Instr.iset, Instr.wellFormed, condAdmitted]

/-- Settles O48, by what a line stands for in each instruction set; a condition other than always leaves only the A32
instruction, which R80 refuses (O10). -/
theorem assemblerLinesRunOnlyUnconditionally : Obligations.AssemblerLinesRunOnlyUnconditionally := by
  intro iset l
  obtain ⟨hwriteA, hrtA, hisetA, hwfA, hcondA⟩ := instrA32_spec l
  obtain ⟨hwriteT, hrtT, hisetT, hwfT, hcondT⟩ := instrT32_spec l
  refine ⟨fun htuple halways => ?always, fun i hi => ?wellFormed, fun i s hcond hi => ?conditional,
    fun hopc2 => ?omitted, fun htuple => ?otherTuple⟩
  case always =>
    have hnot15 : l.condition ≠ 0b1111#4 := by simp [halways]
    cases iset with
    | a32 =>
      exact ⟨l.instrA32, (instr_ok_iff ..).2 ⟨htuple, hnot15, .inl ⟨rfl, rfl⟩⟩, hwriteA, hrtA,
        fun s _ => by simp [hcondA, halways]⟩
    | t32 =>
      exact ⟨l.instrT32, (instr_ok_iff ..).2 ⟨htuple, hnot15, .inr ⟨rfl, halways, rfl⟩⟩, hwriteT, hrtT,
        fun s hs => by simp [hcondT, hs]⟩
  case wellFormed =>
    obtain ⟨_, hnot15, ⟨rfl, rfl⟩ | ⟨rfl, _, rfl⟩⟩ := (instr_ok_iff ..).1 hi
    · exact ⟨hwfA.trans (decide_eq_true hnot15), hisetA⟩
    · exact ⟨hwfT, hisetT⟩
  case conditional =>
    obtain ⟨_, _, ⟨_, rfl⟩ | ⟨_, halways, _⟩⟩ := (instr_ok_iff ..).1 hi
    · have hrefused : ¬ s.notRefused l.instrA32 := by
        rintro ⟨_, _, hadmitted, _⟩
        simp [hcondA, hcond] at hadmitted
      exact ((refusedExactlyByRefusals s).1 _).2 hrefused
    · exact absurd halways hcond
  case omitted =>
    intro htuple
    simpa [AsmLine.tuple, hopc2, sdcrTuple] using congrArg SysRegTuple.opc2 htuple
  case otherTuple => exact if_pos htuple

end Sys2Proof.Proofs
end

section
/-!
The answers to queries: Effective values, the predicates of STE, EDAD and SPD where their fields govern, the refusals
outside the domain (R42, R46), and what of SDCR's value an answer depends on (R16, R40).
-/
namespace Sys2Proof.Proofs
open Sys2Proof.Machine

/-! Effective values. -/

theorem noEL3Secure_eq_false {c : Config} {x : Ctx} (h : c.haveEL3 = true ∨ x.scrNsEff = 1#1) :
    noEL3Secure c x = false := by
  rcases h with h | h <;> simp [noEL3Secure, h]

theorem mem_clauseFields_iff (f : BitField) : f ∈ [BitField.epmad, .edad, .ste, .spme] ↔ f.hasEffClause = true := by
  cases f <;> decide

/-- Settles O21, by the order of R42's formula. -/
theorem effectiveValueOfEachField : Obligations.EffectiveValueOfEachField := by
  intro s f
  refine ⟨s.seen s.draws, s.seen s.draws, seen_maySee s _, seen_maySee s _, fun hf => ?res0,
    fun hf hclause he hn => ?clause, fun hf hno => ?field, fun he hn => ?spdClause, fun hno => ?spdField⟩
  case res0 => simp [answer, effBit, hf]
  case clause =>
    rw [mem_clauseFields_iff] at hclause
    simp [answer, effBit, noEL3Secure, hf, hclause, he, hn]
  case field =>
    have hclause : (f.hasEffClause && noEL3Secure s.cfg s.ctx) = false := by
      rw [mem_clauseFields_iff] at hno
      rcases hno with h | h
      · simp [h]
      · simp [noEL3Secure_eq_false h]
    simp [answer, effBit, hf, hclause, present, fieldBit_eq]
  case spdClause => simp [answer, effSpd, noEL3Secure, he, hn]
  case spdField => simp [answer, effSpd, noEL3Secure_eq_false hno, present, spdBits]

/-! Predicates inside their domain. -/

/-- Settles O30. -/
theorem steProhibitsSecureTrace : Obligations.SteProhibitsSecureTrace := by
  intro s h
  refine ⟨s.seen s.draws, seen_maySee s _, ?_⟩
  rw [answer, inDomainOnly_of_clauseFieldsGovern h, secureTraceProhibited, clauseBit_is_zero h _ (f := .ste) rfl]
  cases hf : s.cfg.featTRF <;> simp [BitField.isField, BitField.pos, hf]

/-- Settles O32: the two indirect reads draw one after the other. -/
theorem cycleCounterStopsByEitherField : Obligations.CycleCounterStopsByEitherField := by
  intro s h
  refine ⟨s.seen s.draws, s.seen (s.draws + 1), seen_maySee s _, seen_maySee s _, ?_⟩
  rw [answer, inDomainOnly_of_fieldsGovern h]

/-- Settles O29, by the class of the register under EDAD's third description (R32). -/
theorem edadWithoutDebugv8p2LeavesOslarOpen : Obligations.EdadWithoutDebugv8p2LeavesOslarOpen := by
  intro s cls ns h h4 h2
  have hvariant : edadVariant s.cfg = .c := by simp [edadVariant, h4, h2]
  have hone : (effBit s.cfg s.ctx (s.seen s.draws) .edad).is 1#1 = (!s.cfg.haveEL3 || (s.seen s.draws).getLsbD 20) :=
    clauseBit_is_one h _ (f := .edad) rfl
  have hzero : (effBit s.cfg s.ctx (s.seen s.draws) .edad).is 0#1 =
      !(!s.cfg.haveEL3 || (s.seen s.draws).getLsbD 20) :=
    clauseBit_is_zero h _ (f := .edad) rfl
  refine ⟨s.seen s.draws, _, seen_maySee s _, by rw [answer, inDomainOnly_of_clauseFieldsGovern h], ?_⟩
  simp only [extDebugForbidden, hvariant]
  generalize (!s.cfg.haveEL3 || (s.seen s.draws).getLsbD 20) = edad at hone hzero ⊢
  cases cls with
  | breakpoint => simp [extDebugForbiddenC, hone]
  | watchpoint => simp [extDebugForbiddenC, hone]
  | otherDebug => simp [extDebugForbiddenC]
  | oslarEL1 =>
    simp only [extDebugForbiddenC, hzero]
    by_cases hblocked : edad = true ∧ s.cfg.impdefEdadBlocksOslar = true
    · simp +contextual [hblocked]
    · simp_all

theorem inSecureOnly_of_nonsecure {s : State} (h : s.clauseFieldsGovern) (hs : s.ctx.secure = false) (b : Bool) :
    inSecureOnly s b = .error .spdIgnoredInNonsecure := by
  simp [inSecureOnly, inDomain_of_clauseFieldsGovern h, hs]

/-- R41's predicate on the value seen. -/
theorem secureEL0DebugExceptionsEnabled_of_clauseFieldsGovern {s : State} (h : s.clauseFieldsGovern) (v : Word) :
    secureEL0DebugExceptionsEnabled s.cfg s.ctx v =
      (!s.cfg.haveEL3 || decide (spdBits v = 0b11#2) || (decide (spdBits v ≠ 0b10#2) && s.ctx.authEl3DebugEnable) ||
        decide (s.ctx.sderSUIDEN = 1#1)) := by
  rw [secureEL0DebugExceptionsEnabled, el3DebugExceptionsEnabled_of_effSpd (effSpd_of_clauseFieldsGovern h v)]
  have hsuiden : (s.ctx.sderSUIDEN == 1#1) = decide (s.ctx.sderSUIDEN = 1#1) := rfl
  rw [hsuiden]
  congr 1
  cases s.cfg.haveEL3 with
  | false => rfl
  | true =>
    generalize spdBits v = spd
    generalize s.ctx.authEl3DebugEnable = auth
    revert spd auth
    decide

/-- Settles O34, by the Security state. -/
theorem secureEL0FollowsEl3OrSuiden : Obligations.SecureEL0FollowsEl3OrSuiden := by
  intro s h
  refine ⟨inDomainOnly_of_clauseFieldsGovern h true, fun hs => ?_, fun hs => ?_⟩
  · exact ⟨inSecureOnly_of_nonsecure h hs _, inSecureOnly_of_nonsecure h hs _⟩
  · refine ⟨s.seen s.draws, seen_maySee s _, ?_⟩
    rw [answer, inSecureOnly_of_secure h hs, secureEL0DebugExceptionsEnabled_of_clauseFieldsGovern h]
    rfl

/-! The domain. -/

/-- Outside its domain a predicate is refused (R46). -/
theorem answer_of_not_inDomain {s : State} {q : Query} (hbit : ∀ f, q ≠ .effBit f) (hspd : q ≠ .effSpd)
    (h : inDomain s.cfg s.ctx (!q.readsNoClauseField) = false) : answer s q = .error .noMeaning := by
  cases q
  case effBit f => exact absurd rfl (hbit f)
  case effSpd => exact absurd rfl hspd
  all_goals simp_all [answer, inDomainOnly, inSecureOnly, Query.readsNoClauseField]

/-- Inside its domain a predicate has an answer, but for SPD's two in Non-secure state (R41, R46). -/
theorem answer_of_inDomain {s : State} (q : Query) (h : inDomain s.cfg s.ctx (!q.readsNoClauseField) = true) :
    if (q = .el3DebugExceptionsEnabled ∨ q = .secureEL0DebugExceptionsEnabled) ∧ s.ctx.secure = false then
      answer s q = .error .spdIgnoredInNonsecure
    else ∃ a, answer s q = .ok a := by
  cases q
  case el3DebugExceptionsEnabled | secureEL0DebugExceptionsEnabled =>
    cases hs : s.ctx.secure <;> simp_all [answer, inSecureOnly, Query.readsNoClauseField]
  all_goals simp_all [answer, inDomainOnly, Query.readsNoClauseField]

/-- Settles O35: both halves say whether the query's domain holds. -/
theorem predicatesMeanNothingOutsideTheirDomain : Obligations.PredicatesMeanNothingOutsideTheirDomain := by
  intro s q hbit hspd
  refine ⟨fun habsent hno => answer_of_not_inDomain hbit hspd ?_, fun hgovern => answer_of_inDomain q ?_⟩
  · have hpresent : (present s.cfg && s.ctx.el3AArch32) = false := by
      rcases habsent with h | h <;> simp [present, h]
    have hclause : (noEL3Secure s.cfg s.ctx && !q.readsNoClauseField) = false := by
      rcases hno with h | h
      · simp [h]
      · simp [noEL3Secure_eq_false h]
    simp [inDomain, hpresent, hclause]
  · rcases hgovern with hg | ⟨hg, hq⟩
    · exact inDomain_of_fieldsGovern hg _
    · simpa [hq] using inDomain_of_clauseFieldsGovern hg

/-! What an answer depends on. -/

/-- Two values that no predicate tells apart: the same Effective value of every one-bit field, and the same decision on
debug exceptions from EL3. -/
def actAlike (c : Config) (x : Ctx) (v w : Word) : Prop :=
  (∀ f, effBit c x v f = effBit c x w f) ∧ el3DebugExceptionsEnabled c x v = el3DebugExceptionsEnabled c x w

/-- An answer other than Eff.SPD reads SDCR only through those. -/
theorem answer_of_actAlike {s : State} {v w : Word} {q : Query} (h : actAlike s.cfg s.ctx v w)
    (hq : q = .effSpd → effSpd s.cfg s.ctx v = effSpd s.cfg s.ctx w) :
    answer { s with sdcr := v, stale := [] } q = answer { s with sdcr := w, stale := [] } q := by
  obtain ⟨hbit, hel3⟩ := h
  have seenIs (u : Word) (k : Nat) : ({ s with sdcr := u, stale := [] } : State).seen k = u := seen_of_stale_nil rfl k
  have hmtpme : mtpmeActsAs0 s.cfg s.ctx v = mtpmeActsAs0 s.cfg s.ctx w := by simp only [mtpmeActsAs0, hbit]
  have hspme : eventCountingProhibited s.cfg s.ctx v = eventCountingProhibited s.cfg s.ctx w := by
    simp only [eventCountingProhibited, hbit]
  have hedadC (drawn : Bool) (cls : DebugClass) :
      extDebugForbiddenC s.cfg s.ctx v drawn cls = extDebugForbiddenC s.cfg s.ctx w drawn cls := by
    cases cls <;> simp only [extDebugForbiddenC, hbit]
  cases q <;> simp only [answer, seenIs, inDomainOnly, inSecureOnly, hbit, hq, effPmevtyperMT, hmtpme, tdccTraps,
    pmccntrProhibitedBySccd, extPmuForbidden, extDebugForbidden, hedadC, ttrfTraps, secureTraceProhibited, hspme,
    pmccntrDisabledBySpme, hel3, secureEL0DebugExceptionsEnabled]

theorem effBit_congr {c : Config} {x : Ctx} {v w : Word} {f : BitField}
    (h : f.isField c = true → v.getLsbD f.pos = w.getLsbD f.pos) : effBit c x v f = effBit c x w f := by
  cases hf : f.isField c with
  | false => simp [effBit, hf]
  | true => simp [effBit, fieldBit_eq, h hf]

/-- Values that agree outside a mask agree on every bit outside it. -/
theorem getLsbD_eq_of_and_not {v w m : Word} (h : v &&& ~~~m = w &&& ~~~m) {n : Nat} (hn : n < 32)
    (hm : m.getLsbD n = false) : v.getLsbD n = w.getLsbD n := by
  have hbit := congrArg (fun u => u.getLsbD n) h
  simpa only [BitVec.getLsbD_and, BitVec.getLsbD_not, hn, hm, decide_true, Bool.not_false, Bool.and_true] using hbit

/-- Settles O36: the bits of the fields of a chip lie outside its RES0 mask. -/
theorem res0BitsHaveNoEffect : Obligations.Res0BitsHaveNoEffect := by
  intro s v w q h
  have hfield (f : BitField) : effBit s.cfg s.ctx v f = effBit s.cfg s.ctx w f :=
    effBit_congr fun hf => getLsbD_eq_of_and_not h (by cases f <;> decide) (res0Mask_pos_of_isField hf)
  have hspd : effSpd s.cfg s.ctx v = effSpd s.cfg s.ctx w := by
    have hbits : spdBits v = spdBits w := spdBits_eq_of_bits
      (getLsbD_eq_of_and_not h (by decide) (by rw [res0MaskFollowsTheLayout _ _ (by decide)]; simp))
      (getLsbD_eq_of_and_not h (by decide) (by rw [res0MaskFollowsTheLayout _ _ (by decide)]; simp))
    rw [effSpd, effSpd, hbits]
  have hel3 : el3DebugExceptionsEnabled s.cfg s.ctx v = el3DebugExceptionsEnabled s.cfg s.ctx w := by
    rw [el3DebugExceptionsEnabled, el3DebugExceptionsEnabled, hspd]
  exact answer_of_actAlike ⟨hfield, hel3⟩ fun _ => hspd

/-- Settles O37: the two values differ in bit 14 only, which is no one-bit field, and SPD's decision takes both under
one arm. -/
theorem reservedSpdActsAsLegacy : Obligations.ReservedSpdActsAsLegacy := by
  intro s v q hq hv
  have hfield (f : BitField) : effBit s.cfg s.ctx v f = effBit s.cfg s.ctx (v &&& 0xFFFF3FFF#32) f :=
    effBit_congr fun _ => by cases f <;> simp [BitField.pos]
  have hspd : el3DebugExceptionsEnabled s.cfg s.ctx v =
      el3DebugExceptionsEnabled s.cfg s.ctx (v &&& 0xFFFF3FFF#32) := by
    rw [el3DebugExceptionsEnabled, el3DebugExceptionsEnabled, effSpd, effSpd, hv, spdBits_and_clear]
    cases noEL3Secure s.cfg s.ctx <;> cases present s.cfg && s.ctx.el3AArch32 <;> rfl
  exact answer_of_actAlike ⟨hfield, hspd⟩ fun h => absurd h hq

/-! An access that goes on. -/

theorem guardedAccess_goes_on {s : State} {acc : SysRegAccess} (h : guardsReg s.cfg acc.reg = false ∨
    (s.fieldsGovern ∧ tdccTraps s.cfg s.ctx (s.seen s.draws) acc = false ∧
      ttrfTraps s.cfg s.ctx (s.seen (s.draws + 1)) acc = false)) :
    ∃ t, guardedAccess acc s = .next t := by
  unfold guardedAccess
  rcases h with hfree | ⟨hg, htdcc, httrf⟩
  · simp [hfree]
  · rw [inDomain_of_fieldsGovern hg, htdcc, httrf]
    cases guardsReg s.cfg acc.reg <;> simp

/-- Settles O25: on the values the access draws neither field traps it, or neither guards its register. -/
theorem untrappedAccessGoesOn : Obligations.UntrappedAccessGoesOn := by
  intro s acc he hfree
  have hnot : guardsReg s.cfg acc.reg = false ∨
      (s.fieldsGovern ∧ tdccTraps s.cfg s.ctx (s.seen s.draws) acc = false ∧
        ttrfTraps s.cfg s.ctx (s.seen (s.draws + 1)) acc = false) := by
    rcases hfree with ⟨hg, hno⟩ | ⟨hdcc, hhtrf, htrf⟩
    · refine .inr ⟨hg, Bool.eq_false_iff.2 fun htdcc => ?_, Bool.eq_false_iff.2 fun httrf => ?_⟩
      · refine (hno _ (seen_maySee s s.draws)).1 ?_
        rw [tdccTraps_of_fieldsGovern hg] at htdcc
        simpa [and_assoc, imp_iff_not_or] using htdcc
      · refine (hno _ (seen_maySee s (s.draws + 1))).2 ?_
        rw [ttrfTraps_of_fieldsGovern hg] at httrf
        simpa [and_assoc] using httrf
    · exact .inl (by simp [guardsReg, isTraceFilterReg, hdcc, hhtrf, htrf])
  obtain ⟨t, ht⟩ := guardedAccess_goes_on (s := s.popEvent) hnot
  refine ⟨t, (step_guardedAccess he).trans ht, ?_⟩
  rcases guardedAccess_next ht with rfl | rfl <;> simp

end Sys2Proof.Proofs
end
